-- ==== Sys2Proof/Word.lean ====
section
/-! DEFINITION. The plain types the spec's words and values have (00_scope R8, R10, R14; 10_state R24). -/

namespace Sys2Proof

/-- One byte of the launch buffer. -/
abbrev Byte := BitVec 8

/-- A request's command word, 16 bits (30_encoding R60); also a binary16 pattern (40_primitives R103). -/
abbrev Word16 := BitVec 16

/-- An IEEE 754 binary32 word: every output channel (D7, 40_primitives R109). -/
abbrev F32 := BitVec 32

/-- A local coordinate, 0..3 (30_encoding R60). -/
abbrev Coord := BitVec 2

/-- The three colour channels of an endpoint (44_bc6h R203, R107 "channels are lanes"). -/
structure Rgb (α : Type) where
  r : α
  g : α
  b : α
deriving DecidableEq, Repr

/-- An exact non-negative rational num/den: an LDR channel before `toF32` (00_scope R14). The value alone matters, never
the pair it is written as. -/
structure Frac where
  num : Nat
  den : Nat
deriving DecidableEq, Repr

/-- A response's four channel words (10_state R24). -/
structure Color where
  r : F32
  g : F32
  b : F32
  a : F32
deriving DecidableEq, Repr

end Sys2Proof
end

