-- ==== Sys2Proof/Syntax.lean ====
section
/-! DEFINITION. The instruction set as syntax: one constructor of `Instr` for each row of spec/opcode_table.json. The table has
two levels (30_encoding R60 to R68): the command word of a request selects one of the `DEC.*` operations or a reserved one,
and the mode field inside a BC6H or BC7 block is "a second-level opcode inside the block" (log 1). -/

namespace Sys2Proof

/-- A request `(cmd, off)` (30_encoding R60): the operand latch of a unit (10_state R23). -/
structure Request where
  cmd : Word16
  off : Nat
deriving DecidableEq, Repr

/-- BC6H signedness: `signed` is fixed by the op of the request, UF16 or SF16 (10_state R25). -/
inductive Signedness where
  | uf16
  | sf16
deriving DecidableEq, Repr

/-- A colour channel. -/
inductive Chan where
  | r
  | g
  | b
deriving DecidableEq, Repr

/-- The stored fields of a two-subset BC6H block (modes 1 to 10): endpoint fields `w x y z`, partition, index field
(44_bc6h R203, R204). -/
structure Bc6hTwo where
  w : Rgb Nat
  x : Rgb Nat
  y : Rgb Nat
  z : Rgb Nat
  p : Nat
  idx : Nat
deriving DecidableEq, Repr

/-- The stored fields of a one-subset BC6H block (modes 11 to 14): endpoint fields `w x`, index field (44_bc6h R203, R204). -/
structure Bc6hOne where
  w : Rgb Nat
  x : Rgb Nat
  idx : Nat
deriving DecidableEq, Repr

/-- The stored fields of a BC7 block (45_bc7 R262), each list in the block's order: partition, rotation, index selection, the raw
endpoint fields of each channel (endpoint 0 first; `a` empty where the mode has no alpha endpoints), the p-bits (one an
endpoint or one a subset), index arrays 1 and 2. A field the mode does not have is 0 or empty. -/
structure Bc7Fields where
  p : Nat
  rot : Nat
  isel : Nat
  r : List Nat
  g : List Nat
  b : List Nat
  a : List Nat
  pb : List Nat
  idx1 : Nat
  idx2 : Nat
deriving DecidableEq, Repr

/-- What the BC6H mode field selects (44_bc6h R200): 14 modes and four reserved codes. -/
inductive Bc6hMode where
  | m1 | m2 | m3 | m4 | m5 | m6 | m7 | m8 | m9 | m10 | m11 | m12 | m13 | m14
  | r13 | r17 | r1B | r1F
deriving DecidableEq, Repr

/-- What the BC7 mode field selects (45_bc7 R260): 8 modes and the reserved block. -/
inductive Bc7Mode where
  | m0 | m1 | m2 | m3 | m4 | m5 | m6 | m7
  | reserved
deriving DecidableEq, Repr

/-- The instructions. A request-level one carries the fields of `(cmd, off)` (`x`, `y`, `off`; a reserved op keeps `rsv` too). A
block-level one carries the pixel `x`, `y` of the request it runs in (for BC6H the signedness too) and the fields of the block;
a reserved one carries the block bits above its mode field, which no rule reads. -/
inductive Instr where
  | decBc1 (x y : Coord) (off : Nat)
  | decBc3 (x y : Coord) (off : Nat)
  | decBc4 (x y : Coord) (off : Nat)
  | decBc5 (x y : Coord) (off : Nat)
  | decBc6hUf16 (x y : Coord) (off : Nat)
  | decBc6hSf16 (x y : Coord) (off : Nat)
  | decBc7 (x y : Coord) (off : Nat)
  | reservedOp7 (x y : Coord) (rsv : BitVec 8) (off : Nat)
  | reservedOp8toF (low : BitVec 3) (x y : Coord) (rsv : BitVec 8) (off : Nat)
  | bc6hMode1 (sg : Signedness) (x y : Coord) (f : Bc6hTwo)
  | bc6hMode2 (sg : Signedness) (x y : Coord) (f : Bc6hTwo)
  | bc6hMode3 (sg : Signedness) (x y : Coord) (f : Bc6hTwo)
  | bc6hMode4 (sg : Signedness) (x y : Coord) (f : Bc6hTwo)
  | bc6hMode5 (sg : Signedness) (x y : Coord) (f : Bc6hTwo)
  | bc6hMode6 (sg : Signedness) (x y : Coord) (f : Bc6hTwo)
  | bc6hMode7 (sg : Signedness) (x y : Coord) (f : Bc6hTwo)
  | bc6hMode8 (sg : Signedness) (x y : Coord) (f : Bc6hTwo)
  | bc6hMode9 (sg : Signedness) (x y : Coord) (f : Bc6hTwo)
  | bc6hMode10 (sg : Signedness) (x y : Coord) (f : Bc6hTwo)
  | bc6hMode11 (sg : Signedness) (x y : Coord) (f : Bc6hOne)
  | bc6hMode12 (sg : Signedness) (x y : Coord) (f : Bc6hOne)
  | bc6hMode13 (sg : Signedness) (x y : Coord) (f : Bc6hOne)
  | bc6hMode14 (sg : Signedness) (x y : Coord) (f : Bc6hOne)
  | bc6hReserved13 (sg : Signedness) (x y : Coord) (rest : Nat)
  | bc6hReserved17 (sg : Signedness) (x y : Coord) (rest : Nat)
  | bc6hReserved1B (sg : Signedness) (x y : Coord) (rest : Nat)
  | bc6hReserved1F (sg : Signedness) (x y : Coord) (rest : Nat)
  | bc7Mode0 (x y : Coord) (f : Bc7Fields)
  | bc7Mode1 (x y : Coord) (f : Bc7Fields)
  | bc7Mode2 (x y : Coord) (f : Bc7Fields)
  | bc7Mode3 (x y : Coord) (f : Bc7Fields)
  | bc7Mode4 (x y : Coord) (f : Bc7Fields)
  | bc7Mode5 (x y : Coord) (f : Bc7Fields)
  | bc7Mode6 (x y : Coord) (f : Bc7Fields)
  | bc7Mode7 (x y : Coord) (f : Bc7Fields)
  | bc7ReservedMode (x y : Coord) (rest : Nat)
deriving DecidableEq, Repr

end Sys2Proof
end

