-- ==== Sys2Proof/Machine/Tables.lean ====
section
/-! DEFINITION. The constant tables of 10_state R28: weights, partitions, anchors (41_tables) and the mode descriptors (44_bc6h
R201, 45_bc7 R261). They are constants at every moment, straight after reset too (70 R332). The spec takes most of their
contents from general knowledge (GK3 to GK6, GK9; log 16). -/

namespace Sys2Proof.Machine

/-- `W2` (R130). -/
def w2 : List Nat := [0, 21, 43, 64]

/-- `W3` (R130). -/
def w3 : List Nat := [0, 9, 18, 27, 37, 46, 55, 64]

/-- `W4` (R130). -/
def w4 : List Nat := [0, 4, 9, 13, 17, 21, 26, 30, 34, 38, 43, 47, 51, 55, 60, 64]

/-- `W_b[index]`: the palette weight of an index of width `b` in 2, 3, 4 (R130, R131). No rule asks for another width or an
index outside its table; there the function answers 0 (log 17). -/
def weight (b index : Nat) : Nat :=
  match b with
  | 2 => w2.getD index 0
  | 3 => w3.getD index 0
  | 4 => w4.getD index 0
  | _ => 0

/-- `P2` as 16-bit masks: bit i of row p is the subset of pixel i (R132). Rows 0 to 31, then 32 to 63. -/
def p2Masks : List Nat :=
  [
   0xCCCC, 0x8888, 0xEEEE, 0xECC8, 0xC880, 0xFEEC, 0xFEC8, 0xEC80,
   0xC800, 0xFFEC, 0xFE80, 0xE800, 0xFFE8, 0xFF00, 0xFFF0, 0xF000,
   0xF710, 0x008E, 0x7100, 0x08CE, 0x008C, 0x7310, 0x3100, 0x8CCE,
   0x088C, 0x3110, 0x6666, 0x366C, 0x17E8, 0x0FF0, 0x718E, 0x399C] ++
  [
   0xAAAA, 0xF0F0, 0x5A5A, 0x33CC, 0x3C3C, 0x55AA, 0x9696, 0xA55A,
   0x73CE, 0x13C8, 0x324C, 0x3BDC, 0x6996, 0xC33C, 0x9966, 0x0660,
   0x0272, 0x04E4, 0x4E40, 0x2720, 0xC936, 0x936C, 0x39C6, 0x639C,
   0x9336, 0x9CC6, 0x817E, 0xE718, 0xCCF0, 0x0FCC, 0x7744, 0xEE22]

/-- `P2[p][i]` (R132). -/
def partition2 (p i : Nat) : Nat := ((p2Masks.getD p 0) >>> i) % 2

/-- `P3`, each row its 16 digits as the spec writes them, pixel 0 the leftmost (R133). Rows 0 to 31, then 32 to 63. -/
def p3Rows : List Nat :=
  [
   0x0011001102212222, 0x0001001122112221, 0x0000200122112211, 0x0222002200110111,
   0x0000000011221122, 0x0011001100220022, 0x0022002211111111, 0x0011001122112211,
   0x0000000011112222, 0x0000111111112222, 0x0000111122222222, 0x0012001200120012,
   0x0112011201120112, 0x0122012201220122, 0x0011011211221222, 0x0011200122002220,
   0x0001001101121122, 0x0111001120012200, 0x0000112211221122, 0x0022002200221111,
   0x0111011102220222, 0x0001000122212221, 0x0000001101220122, 0x0000110022102210,
   0x0122012200110000, 0x0012001211222222, 0x0110122112210110, 0x0000011012211221,
   0x0022110211020022, 0x0110011020022222, 0x0011012201220011, 0x0000200022112221] ++
  [
   0x0000000211221222, 0x0222002200120011, 0x0011001200220222, 0x0120012001200120,
   0x0000111122220000, 0x0120120120120120, 0x0120201212010120, 0x0011220011220011,
   0x0011112222000011, 0x0101010122222222, 0x0000000021212121, 0x0022112200221122,
   0x0022001100220011, 0x0220122102201221, 0x0101222222220101, 0x0000212121212121,
   0x0101010101012222, 0x0222011102220111, 0x0002111200021112, 0x0000211221122112,
   0x0222011101110222, 0x0002111211120002, 0x0110011001102222, 0x0000000021122112,
   0x0110011022222222, 0x0022001100110022, 0x0022112211220022, 0x0000000000002112,
   0x0002000100020001, 0x0222122202221222, 0x0101222222222222, 0x0111201122012220]

/-- `P3[p][i]` (R133): pixel 0 is the row's leftmost digit. -/
def partition3 (p i : Nat) : Nat := ((p3Rows.getD p 0) >>> (4 * (15 - i))) % 16

/-- `A2`: the anchor pixel of subset 1 of a two-subset partition (R134). Rows 0 to 31, then 32 to 63. -/
def a2Table : List Nat :=
  [
   15, 15, 15, 15, 15, 15, 15, 15, 15, 15, 15, 15, 15, 15, 15, 15,
   15, 2, 8, 2, 2, 8, 8, 15, 2, 8, 2, 2, 8, 8, 2, 2] ++
  [
   15, 15, 6, 8, 2, 8, 15, 15, 2, 8, 2, 2, 2, 15, 15, 6,
   6, 2, 6, 8, 15, 15, 2, 2, 15, 15, 15, 15, 15, 2, 2, 15]

/-- `A3_1`: the anchor pixel of subset 1 of a three-subset partition (R135). Rows 0 to 31, then 32 to 63. -/
def a31Table : List Nat :=
  [
   3, 3, 15, 15, 8, 3, 15, 15, 8, 8, 6, 6, 6, 5, 3, 3,
   3, 3, 8, 15, 3, 3, 6, 10, 5, 8, 8, 6, 8, 5, 15, 15] ++
  [
   8, 15, 3, 5, 6, 10, 8, 15, 15, 3, 15, 5, 15, 15, 15, 15,
   3, 15, 5, 5, 5, 8, 5, 10, 5, 10, 8, 13, 15, 12, 3, 3]

/-- `A3_2`: the anchor pixel of subset 2 of a three-subset partition (R135). Rows 0 to 31, then 32 to 63. -/
def a32Table : List Nat :=
  [
   15, 8, 8, 3, 15, 15, 3, 8, 15, 15, 15, 15, 15, 15, 15, 8,
   15, 8, 15, 3, 15, 8, 15, 8, 3, 15, 6, 10, 15, 15, 10, 8] ++
  [
   15, 3, 15, 10, 10, 8, 9, 10, 6, 15, 8, 15, 3, 6, 6, 8,
   15, 3, 15, 15, 15, 15, 15, 15, 15, 15, 15, 15, 3, 15, 15, 8]

/-- `A2[p]` (R134). -/
def anchor2 (p : Nat) : Nat := a2Table.getD p 0

/-- `A3_1[p]` (R135). -/
def anchor31 (p : Nat) : Nat := a31Table.getD p 0

/-- `A3_2[p]` (R135). -/
def anchor32 (p : Nat) : Nat := a32Table.getD p 0

/-- The subset of pixel `i` with `ns` subsets and partition `p` (44_bc6h R225, 45_bc7 R276). -/
def subsetOf (ns p i : Nat) : Nat :=
  match ns with
  | 2 => partition2 p i
  | 3 => partition3 p i
  | _ => 0

/-- The anchor set of an index array with `ns` subsets and partition `p` (44_bc6h R224, 45_bc7 R276). -/
def anchorsOf (ns p : Nat) : List Nat :=
  match ns with
  | 2 => [0, anchor2 p]
  | 3 => [0, anchor31 p, anchor32 p]
  | _ => [0]

/-- A BC6H mode descriptor (44_bc6h R201): subsets, transformed, base width, widths of the `x y z` fields of R, G, B, index
width. -/
structure Bc6hDesc where
  ns : Nat
  t : Bool
  epb : Nat
  dr : Nat
  dg : Nat
  db : Nat
  ib : Nat
deriving DecidableEq, Repr

/-- The BC6H mode descriptors (44_bc6h R201). A reserved code has none, and no rule reads one. -/
def bc6hDesc : Bc6hMode → Bc6hDesc
  | .m1 => ⟨2, true, 10, 5, 5, 5, 3⟩
  | .m2 => ⟨2, true, 7, 6, 6, 6, 3⟩
  | .m3 => ⟨2, true, 11, 5, 4, 4, 3⟩
  | .m4 => ⟨2, true, 11, 4, 5, 4, 3⟩
  | .m5 => ⟨2, true, 11, 4, 4, 5, 3⟩
  | .m6 => ⟨2, true, 9, 5, 5, 5, 3⟩
  | .m7 => ⟨2, true, 8, 6, 5, 5, 3⟩
  | .m8 => ⟨2, true, 8, 5, 6, 5, 3⟩
  | .m9 => ⟨2, true, 8, 5, 5, 6, 3⟩
  | .m10 => ⟨2, false, 6, 6, 6, 6, 3⟩
  | .m11 => ⟨1, false, 10, 10, 10, 10, 4⟩
  | .m12 => ⟨1, true, 11, 9, 9, 9, 4⟩
  | .m13 => ⟨1, true, 12, 8, 8, 8, 4⟩
  | .m14 => ⟨1, true, 16, 4, 4, 4, 4⟩
  | .r13 | .r17 | .r1B | .r1F => ⟨0, false, 0, 0, 0, 0, 0⟩

/-- A BC7 mode descriptor (45_bc7 R261), in the order of the spec's columns. -/
structure Bc7Desc where
  ns : Nat
  pb : Nat
  rb : Nat
  isb : Nat
  cb : Nat
  ab : Nat
  epb : Nat
  spb : Nat
  ib : Nat
  ib2 : Nat
deriving DecidableEq, Repr

/-- The BC7 mode descriptors (45_bc7 R261). The reserved block has none, and no rule reads one. -/
def bc7Desc : Bc7Mode → Bc7Desc
  | .m0 => ⟨3, 4, 0, 0, 4, 0, 1, 0, 3, 0⟩
  | .m1 => ⟨2, 6, 0, 0, 6, 0, 0, 1, 3, 0⟩
  | .m2 => ⟨3, 6, 0, 0, 5, 0, 0, 0, 2, 0⟩
  | .m3 => ⟨2, 6, 0, 0, 7, 0, 1, 0, 2, 0⟩
  | .m4 => ⟨1, 0, 2, 1, 5, 6, 0, 0, 2, 3⟩
  | .m5 => ⟨1, 0, 2, 0, 7, 8, 0, 0, 2, 2⟩
  | .m6 => ⟨1, 0, 0, 0, 7, 7, 1, 0, 4, 0⟩
  | .m7 => ⟨2, 6, 0, 0, 5, 5, 1, 0, 2, 0⟩
  | .reserved => ⟨0, 0, 0, 0, 0, 0, 0, 0, 0, 0⟩

/-- How many endpoint fields a channel has: two a subset (45_bc7 R262). -/
def Bc7Desc.endpoints (d : Bc7Desc) : Nat := 2 * d.ns

/-- How many alpha endpoint fields: none where `AB = 0` (45_bc7 R262, R281). -/
def Bc7Desc.alphaEndpoints (d : Bc7Desc) : Nat := if d.ab = 0 then 0 else 2 * d.ns

/-- How many p-bits: one an endpoint (EPB), one a subset (SPB), or none (45_bc7 R262). -/
def Bc7Desc.pbits (d : Bc7Desc) : Nat := d.epb * (2 * d.ns) + d.spb * d.ns

/-- Bits of index array 1: 16 indices, one bit fewer for each anchor (45_bc7 R277, 41_tables R136). -/
def Bc7Desc.idx1Bits (d : Bc7Desc) : Nat := 16 * d.ib - d.ns

/-- Bits of index array 2, if the mode has one: its only anchor is pixel 0 (45_bc7 R277). -/
def Bc7Desc.idx2Bits (d : Bc7Desc) : Nat := if d.ib2 = 0 then 0 else 16 * d.ib2 - 1

/-- Bits of the index field of a BC6H mode (44_bc6h R204). -/
def Bc6hDesc.idxBits (d : Bc6hDesc) : Nat := 16 * d.ib - d.ns

end Sys2Proof.Machine
end

