-- ==== Sys2Proof/WellFormed.lean ====
section
/-! DEFINITION. Which instruction terms stand for words: every field fits the width the spec's encoding gives it (10_state R23,
30_encoding R60, 44_bc6h R201, R204, 45_bc7 R261, R262). Coordinates, `rsv` and the reserved op's low bits fit by their type. -/

namespace Sys2Proof

/-- A value of a field of `n` bits. -/
def fits (n v : Nat) : Bool := decide (v < 2 ^ n)

/-- An endpoint whose channels have the widths `nr`, `ng`, `nb`. -/
def Rgb.fits (nr ng nb : Nat) (c : Rgb Nat) : Bool := Sys2Proof.fits nr c.r && Sys2Proof.fits ng c.g && Sys2Proof.fits nb c.b

/-- `len` fields of `n` bits each. -/
def fieldsFit (len n : Nat) (vs : List Nat) : Bool := decide (vs.length = len) && vs.all (fits n)

/-- The stored fields of a two-subset BC6H block with descriptor `d` (44_bc6h R201, R204). -/
def Bc6hTwo.fits (d : Machine.Bc6hDesc) (f : Bc6hTwo) : Bool :=
  f.w.fits d.epb d.epb d.epb && f.x.fits d.dr d.dg d.db && f.y.fits d.dr d.dg d.db && f.z.fits d.dr d.dg d.db &&
    Sys2Proof.fits 5 f.p && Sys2Proof.fits d.idxBits f.idx

/-- The stored fields of a one-subset BC6H block with descriptor `d` (44_bc6h R201, R204). -/
def Bc6hOne.fits (d : Machine.Bc6hDesc) (f : Bc6hOne) : Bool :=
  f.w.fits d.epb d.epb d.epb && f.x.fits d.dr d.dg d.db && Sys2Proof.fits d.idxBits f.idx

/-- The stored fields of a BC7 block with descriptor `d` (45_bc7 R261, R262). -/
def Bc7Fields.fits (d : Machine.Bc7Desc) (f : Bc7Fields) : Bool :=
  Sys2Proof.fits d.pb f.p && Sys2Proof.fits d.rb f.rot && Sys2Proof.fits d.isb f.isel &&
    fieldsFit d.endpoints d.cb f.r && fieldsFit d.endpoints d.cb f.g && fieldsFit d.endpoints d.cb f.b &&
    fieldsFit d.alphaEndpoints d.ab f.a && fieldsFit d.pbits 1 f.pb &&
    Sys2Proof.fits d.idx1Bits f.idx1 && Sys2Proof.fits d.idx2Bits f.idx2

/-- Well-formed instructions of an array whose offsets have `addrW` bits. -/
def Instr.wellFormed (addrW : Nat) : Instr → Bool
  | .decBc1 _ _ off => fits addrW off
  | .decBc3 _ _ off => fits addrW off
  | .decBc4 _ _ off => fits addrW off
  | .decBc5 _ _ off => fits addrW off
  | .decBc6hUf16 _ _ off => fits addrW off
  | .decBc6hSf16 _ _ off => fits addrW off
  | .decBc7 _ _ off => fits addrW off
  | .reservedOp7 _ _ _ off => fits addrW off
  | .reservedOp8toF _ _ _ _ off => fits addrW off
  | .bc6hMode1 _ _ _ f => f.fits (Machine.bc6hDesc .m1)
  | .bc6hMode2 _ _ _ f => f.fits (Machine.bc6hDesc .m2)
  | .bc6hMode3 _ _ _ f => f.fits (Machine.bc6hDesc .m3)
  | .bc6hMode4 _ _ _ f => f.fits (Machine.bc6hDesc .m4)
  | .bc6hMode5 _ _ _ f => f.fits (Machine.bc6hDesc .m5)
  | .bc6hMode6 _ _ _ f => f.fits (Machine.bc6hDesc .m6)
  | .bc6hMode7 _ _ _ f => f.fits (Machine.bc6hDesc .m7)
  | .bc6hMode8 _ _ _ f => f.fits (Machine.bc6hDesc .m8)
  | .bc6hMode9 _ _ _ f => f.fits (Machine.bc6hDesc .m9)
  | .bc6hMode10 _ _ _ f => f.fits (Machine.bc6hDesc .m10)
  | .bc6hMode11 _ _ _ f => f.fits (Machine.bc6hDesc .m11)
  | .bc6hMode12 _ _ _ f => f.fits (Machine.bc6hDesc .m12)
  | .bc6hMode13 _ _ _ f => f.fits (Machine.bc6hDesc .m13)
  | .bc6hMode14 _ _ _ f => f.fits (Machine.bc6hDesc .m14)
  | .bc6hReserved13 _ _ _ rest => fits 123 rest
  | .bc6hReserved17 _ _ _ rest => fits 123 rest
  | .bc6hReserved1B _ _ _ rest => fits 123 rest
  | .bc6hReserved1F _ _ _ rest => fits 123 rest
  | .bc7Mode0 _ _ f => f.fits (Machine.bc7Desc .m0)
  | .bc7Mode1 _ _ f => f.fits (Machine.bc7Desc .m1)
  | .bc7Mode2 _ _ f => f.fits (Machine.bc7Desc .m2)
  | .bc7Mode3 _ _ f => f.fits (Machine.bc7Desc .m3)
  | .bc7Mode4 _ _ f => f.fits (Machine.bc7Desc .m4)
  | .bc7Mode5 _ _ f => f.fits (Machine.bc7Desc .m5)
  | .bc7Mode6 _ _ f => f.fits (Machine.bc7Desc .m6)
  | .bc7Mode7 _ _ f => f.fits (Machine.bc7Desc .m7)
  | .bc7ReservedMode _ _ rest => fits 120 rest

end Sys2Proof
end

