-- ==== Sys2Proof/Decode.lean ====
section
/-! DEFINITION. Decoding and encoding, at both levels (30_encoding). Request level: a command word with its offset gives a
`DEC.*` or reserved instruction, or is rejected by name (R60 to R64). Block level: the 128 bits of a BC6H or BC7 block give
exactly one instruction, with its fields pulled out (44_bc6h R200 to R218, 45_bc7 R260 to R270); no block is rejected (R68). -/

namespace Sys2Proof

/-- `v[hi:lo]` (00_scope R10). -/
def slice (v hi lo : Nat) : Nat := (v >>> lo) % 2 ^ (hi + 1 - lo)

/-- Why a request gives no instruction. -/
inductive RequestError where
  /-- `cmd[15:8] ≠ 0` with op 0 to 6: `refuse(RESERVED_FIELD)` (30_encoding R63). -/
  | reservedField
deriving DecidableEq, Repr

/-- Why a code gives no instruction. -/
inductive DecodeError where
  /-- The request is rejected. -/
  | request (e : RequestError)
  /-- A block was offered under a command word whose op has no block-level opcode (30_encoding R65): no request does that. -/
  | noBlockLevel
deriving DecidableEq, Repr

/-! ## Request level -/

/-- A command word from its fields (30_encoding R60). -/
def mkCmd (op : BitVec 4) (x y : Coord) (rsv : BitVec 8) : Word16 := rsv ++ y ++ x ++ op

/-- `cmd[3:0]` (30_encoding R60). -/
def cmdOp (c : Word16) : BitVec 4 := c.extractLsb' 0 4

/-- `cmd[5:4]`, local x (30_encoding R60). -/
def cmdX (c : Word16) : Coord := c.extractLsb' 4 2

/-- `cmd[7:6]`, local y (30_encoding R60). -/
def cmdY (c : Word16) : Coord := c.extractLsb' 6 2

/-- `cmd[15:8]`, reserved, must be 0 (30_encoding R60, R63). -/
def cmdRsv (c : Word16) : BitVec 8 := c.extractLsb' 8 8

/-- The seven operations of op 0x0 to 0x6 (30_encoding R61); a reserved op is the last two rows (R62). The reserved ops come
before the check of `rsv` (60_exceptions R306). -/
def decodeRequest (q : Request) : Except RequestError Instr :=
  let x := cmdX q.cmd
  let y := cmdY q.cmd
  let ok (i : Instr) : Except RequestError Instr := if cmdRsv q.cmd = 0 then .ok i else .error .reservedField
  match (cmdOp q.cmd).toNat with
  | 0x0 => ok (.decBc1 x y q.off)
  | 0x1 => ok (.decBc3 x y q.off)
  | 0x2 => ok (.decBc4 x y q.off)
  | 0x3 => ok (.decBc5 x y q.off)
  | 0x4 => ok (.decBc6hUf16 x y q.off)
  | 0x5 => ok (.decBc6hSf16 x y q.off)
  | 0x6 => ok (.decBc7 x y q.off)
  | 0x7 => .ok (.reservedOp7 x y (cmdRsv q.cmd) q.off)
  | _ => .ok (.reservedOp8toF (q.cmd.extractLsb' 0 3) x y (cmdRsv q.cmd) q.off)

/-! ## The bit cursor (20_memory R44, R45) -/

/-- The bit cursor: the block and the position. -/
structure Cursor where
  blk : Nat
  pos : Nat
deriving DecidableEq, Repr

/-- `cur.read(n)`: the next `n` bits, least significant first, and the cursor past them (20_memory R44). -/
def Cursor.read (c : Cursor) (n : Nat) : Nat × Cursor := ((c.blk >>> c.pos) % 2 ^ n, ⟨c.blk, c.pos + n⟩)

/-- `cur.skip(n)` (20_memory R45). -/
def Cursor.skip (c : Cursor) (n : Nat) : Cursor := ⟨c.blk, c.pos + n⟩

/-- `len` successive fields of `n` bits. -/
def Cursor.readMany (c : Cursor) (n : Nat) : Nat → List Nat × Cursor
  | 0 => ([], c)
  | len + 1 =>
    let (v, c) := c.read n
    let (vs, c) := c.readMany n len
    (v :: vs, c)

/-- Fields (value, width) laid out one after another, the first at bit 0: what a cursor reads back (20_memory R44). -/
def pack : List (Nat × Nat) → Nat
  | [] => 0
  | (v, n) :: rest => v % 2 ^ n + 2 ^ n * pack rest

/-! ## BC6H blocks -/

/-- The fields of a BC6H layout: the endpoint components `cE` of 44_bc6h R203, the partition, the index field. -/
inductive Bc6hField where
  | rW | gW | bW | rX | gX | bX | rY | gY | bY | rZ | gZ | bZ
  | p
  | idx
deriving DecidableEq, Repr

/-- One row of a layout table, `BLK[hi:lo] = fld[fhi:flo]`; a reversed row is `BLK[lo+k] = fld[fhi-k]` (44_bc6h R204, R217). -/
structure Bc6hRow where
  hi : Nat
  lo : Nat
  fld : Bc6hField
  fhi : Nat
  flo : Nat
  rev : Bool
deriving DecidableEq, Repr

/-- Mode 1 layout (44_bc6h R205). -/
def bc6hLayout1 : List Bc6hRow := [
   ⟨2, 2, .gY, 4, 4, false⟩, ⟨3, 3, .bY, 4, 4, false⟩, ⟨4, 4, .bZ, 4, 4, false⟩, ⟨14, 5, .rW, 9, 0, false⟩,
   ⟨24, 15, .gW, 9, 0, false⟩, ⟨34, 25, .bW, 9, 0, false⟩, ⟨39, 35, .rX, 4, 0, false⟩, ⟨40, 40, .gZ, 4, 4, false⟩,
   ⟨44, 41, .gY, 3, 0, false⟩, ⟨49, 45, .gX, 4, 0, false⟩, ⟨50, 50, .bZ, 0, 0, false⟩, ⟨54, 51, .gZ, 3, 0, false⟩,
   ⟨59, 55, .bX, 4, 0, false⟩, ⟨60, 60, .bZ, 1, 1, false⟩, ⟨64, 61, .bY, 3, 0, false⟩, ⟨69, 65, .rY, 4, 0, false⟩,
   ⟨70, 70, .bZ, 2, 2, false⟩, ⟨75, 71, .rZ, 4, 0, false⟩, ⟨76, 76, .bZ, 3, 3, false⟩, ⟨81, 77, .p, 4, 0, false⟩,
   ⟨127, 82, .idx, 45, 0, false⟩]

/-- Mode 2 layout (44_bc6h R206). -/
def bc6hLayout2 : List Bc6hRow := [
   ⟨2, 2, .gY, 5, 5, false⟩, ⟨4, 3, .gZ, 5, 4, false⟩, ⟨11, 5, .rW, 6, 0, false⟩, ⟨13, 12, .bZ, 1, 0, false⟩,
   ⟨14, 14, .bY, 4, 4, false⟩, ⟨21, 15, .gW, 6, 0, false⟩, ⟨22, 22, .bY, 5, 5, false⟩, ⟨23, 23, .bZ, 2, 2, false⟩,
   ⟨24, 24, .gY, 4, 4, false⟩, ⟨31, 25, .bW, 6, 0, false⟩, ⟨32, 32, .bZ, 3, 3, false⟩, ⟨33, 33, .bZ, 5, 5, false⟩,
   ⟨34, 34, .bZ, 4, 4, false⟩, ⟨40, 35, .rX, 5, 0, false⟩, ⟨44, 41, .gY, 3, 0, false⟩, ⟨50, 45, .gX, 5, 0, false⟩,
   ⟨54, 51, .gZ, 3, 0, false⟩, ⟨60, 55, .bX, 5, 0, false⟩, ⟨64, 61, .bY, 3, 0, false⟩, ⟨70, 65, .rY, 5, 0, false⟩,
   ⟨76, 71, .rZ, 5, 0, false⟩, ⟨81, 77, .p, 4, 0, false⟩, ⟨127, 82, .idx, 45, 0, false⟩]

/-- Mode 3 layout (44_bc6h R207). -/
def bc6hLayout3 : List Bc6hRow := [
   ⟨14, 5, .rW, 9, 0, false⟩, ⟨24, 15, .gW, 9, 0, false⟩, ⟨34, 25, .bW, 9, 0, false⟩, ⟨39, 35, .rX, 4, 0, false⟩,
   ⟨40, 40, .rW, 10, 10, false⟩, ⟨44, 41, .gY, 3, 0, false⟩, ⟨48, 45, .gX, 3, 0, false⟩, ⟨49, 49, .gW, 10, 10, false⟩,
   ⟨50, 50, .bZ, 0, 0, false⟩, ⟨54, 51, .gZ, 3, 0, false⟩, ⟨58, 55, .bX, 3, 0, false⟩, ⟨59, 59, .bW, 10, 10, false⟩,
   ⟨60, 60, .bZ, 1, 1, false⟩, ⟨64, 61, .bY, 3, 0, false⟩, ⟨69, 65, .rY, 4, 0, false⟩, ⟨70, 70, .bZ, 2, 2, false⟩,
   ⟨75, 71, .rZ, 4, 0, false⟩, ⟨76, 76, .bZ, 3, 3, false⟩, ⟨81, 77, .p, 4, 0, false⟩, ⟨127, 82, .idx, 45, 0, false⟩]

/-- Mode 4 layout (44_bc6h R208). -/
def bc6hLayout4 : List Bc6hRow := [
   ⟨14, 5, .rW, 9, 0, false⟩, ⟨24, 15, .gW, 9, 0, false⟩, ⟨34, 25, .bW, 9, 0, false⟩, ⟨38, 35, .rX, 3, 0, false⟩,
   ⟨39, 39, .rW, 10, 10, false⟩, ⟨40, 40, .gZ, 4, 4, false⟩, ⟨44, 41, .gY, 3, 0, false⟩, ⟨49, 45, .gX, 4, 0, false⟩,
   ⟨50, 50, .gW, 10, 10, false⟩, ⟨54, 51, .gZ, 3, 0, false⟩, ⟨58, 55, .bX, 3, 0, false⟩, ⟨59, 59, .bW, 10, 10, false⟩,
   ⟨60, 60, .bZ, 1, 1, false⟩, ⟨64, 61, .bY, 3, 0, false⟩, ⟨68, 65, .rY, 3, 0, false⟩, ⟨69, 69, .bZ, 0, 0, false⟩,
   ⟨70, 70, .bZ, 2, 2, false⟩, ⟨74, 71, .rZ, 3, 0, false⟩, ⟨75, 75, .gY, 4, 4, false⟩, ⟨76, 76, .bZ, 3, 3, false⟩,
   ⟨81, 77, .p, 4, 0, false⟩, ⟨127, 82, .idx, 45, 0, false⟩]

/-- Mode 5 layout (44_bc6h R209). -/
def bc6hLayout5 : List Bc6hRow := [
   ⟨14, 5, .rW, 9, 0, false⟩, ⟨24, 15, .gW, 9, 0, false⟩, ⟨34, 25, .bW, 9, 0, false⟩, ⟨38, 35, .rX, 3, 0, false⟩,
   ⟨39, 39, .rW, 10, 10, false⟩, ⟨40, 40, .bY, 4, 4, false⟩, ⟨44, 41, .gY, 3, 0, false⟩, ⟨48, 45, .gX, 3, 0, false⟩,
   ⟨49, 49, .gW, 10, 10, false⟩, ⟨50, 50, .bZ, 0, 0, false⟩, ⟨54, 51, .gZ, 3, 0, false⟩, ⟨59, 55, .bX, 4, 0, false⟩,
   ⟨60, 60, .bW, 10, 10, false⟩, ⟨64, 61, .bY, 3, 0, false⟩, ⟨68, 65, .rY, 3, 0, false⟩, ⟨70, 69, .bZ, 2, 1, false⟩,
   ⟨74, 71, .rZ, 3, 0, false⟩, ⟨75, 75, .bZ, 4, 4, false⟩, ⟨76, 76, .bZ, 3, 3, false⟩, ⟨81, 77, .p, 4, 0, false⟩,
   ⟨127, 82, .idx, 45, 0, false⟩]

/-- Mode 6 layout (44_bc6h R210). -/
def bc6hLayout6 : List Bc6hRow := [
   ⟨13, 5, .rW, 8, 0, false⟩, ⟨14, 14, .bY, 4, 4, false⟩, ⟨23, 15, .gW, 8, 0, false⟩, ⟨24, 24, .gY, 4, 4, false⟩,
   ⟨33, 25, .bW, 8, 0, false⟩, ⟨34, 34, .bZ, 4, 4, false⟩, ⟨39, 35, .rX, 4, 0, false⟩, ⟨40, 40, .gZ, 4, 4, false⟩,
   ⟨44, 41, .gY, 3, 0, false⟩, ⟨49, 45, .gX, 4, 0, false⟩, ⟨50, 50, .bZ, 0, 0, false⟩, ⟨54, 51, .gZ, 3, 0, false⟩,
   ⟨59, 55, .bX, 4, 0, false⟩, ⟨60, 60, .bZ, 1, 1, false⟩, ⟨64, 61, .bY, 3, 0, false⟩, ⟨69, 65, .rY, 4, 0, false⟩,
   ⟨70, 70, .bZ, 2, 2, false⟩, ⟨75, 71, .rZ, 4, 0, false⟩, ⟨76, 76, .bZ, 3, 3, false⟩, ⟨81, 77, .p, 4, 0, false⟩,
   ⟨127, 82, .idx, 45, 0, false⟩]

/-- Mode 7 layout (44_bc6h R211). -/
def bc6hLayout7 : List Bc6hRow := [
   ⟨12, 5, .rW, 7, 0, false⟩, ⟨13, 13, .gZ, 4, 4, false⟩, ⟨14, 14, .bY, 4, 4, false⟩, ⟨22, 15, .gW, 7, 0, false⟩,
   ⟨23, 23, .bZ, 2, 2, false⟩, ⟨24, 24, .gY, 4, 4, false⟩, ⟨32, 25, .bW, 7, 0, false⟩, ⟨34, 33, .bZ, 4, 3, false⟩,
   ⟨40, 35, .rX, 5, 0, false⟩, ⟨44, 41, .gY, 3, 0, false⟩, ⟨49, 45, .gX, 4, 0, false⟩, ⟨50, 50, .bZ, 0, 0, false⟩,
   ⟨54, 51, .gZ, 3, 0, false⟩, ⟨59, 55, .bX, 4, 0, false⟩, ⟨60, 60, .bZ, 1, 1, false⟩, ⟨64, 61, .bY, 3, 0, false⟩,
   ⟨70, 65, .rY, 5, 0, false⟩, ⟨76, 71, .rZ, 5, 0, false⟩, ⟨81, 77, .p, 4, 0, false⟩, ⟨127, 82, .idx, 45, 0, false⟩]

/-- Mode 8 layout (44_bc6h R212). -/
def bc6hLayout8 : List Bc6hRow := [
   ⟨12, 5, .rW, 7, 0, false⟩, ⟨13, 13, .bZ, 0, 0, false⟩, ⟨14, 14, .bY, 4, 4, false⟩, ⟨22, 15, .gW, 7, 0, false⟩,
   ⟨23, 23, .gY, 5, 5, false⟩, ⟨24, 24, .gY, 4, 4, false⟩, ⟨32, 25, .bW, 7, 0, false⟩, ⟨33, 33, .gZ, 5, 5, false⟩,
   ⟨34, 34, .bZ, 4, 4, false⟩, ⟨39, 35, .rX, 4, 0, false⟩, ⟨40, 40, .gZ, 4, 4, false⟩, ⟨44, 41, .gY, 3, 0, false⟩,
   ⟨50, 45, .gX, 5, 0, false⟩, ⟨54, 51, .gZ, 3, 0, false⟩, ⟨59, 55, .bX, 4, 0, false⟩, ⟨60, 60, .bZ, 1, 1, false⟩,
   ⟨64, 61, .bY, 3, 0, false⟩, ⟨69, 65, .rY, 4, 0, false⟩, ⟨70, 70, .bZ, 2, 2, false⟩, ⟨75, 71, .rZ, 4, 0, false⟩,
   ⟨76, 76, .bZ, 3, 3, false⟩, ⟨81, 77, .p, 4, 0, false⟩, ⟨127, 82, .idx, 45, 0, false⟩]

/-- Mode 9 layout (44_bc6h R213). -/
def bc6hLayout9 : List Bc6hRow := [
   ⟨12, 5, .rW, 7, 0, false⟩, ⟨13, 13, .bZ, 1, 1, false⟩, ⟨14, 14, .bY, 4, 4, false⟩, ⟨22, 15, .gW, 7, 0, false⟩,
   ⟨23, 23, .bY, 5, 5, false⟩, ⟨24, 24, .gY, 4, 4, false⟩, ⟨32, 25, .bW, 7, 0, false⟩, ⟨33, 33, .bZ, 5, 5, false⟩,
   ⟨34, 34, .bZ, 4, 4, false⟩, ⟨39, 35, .rX, 4, 0, false⟩, ⟨40, 40, .gZ, 4, 4, false⟩, ⟨44, 41, .gY, 3, 0, false⟩,
   ⟨49, 45, .gX, 4, 0, false⟩, ⟨50, 50, .bZ, 0, 0, false⟩, ⟨54, 51, .gZ, 3, 0, false⟩, ⟨60, 55, .bX, 5, 0, false⟩,
   ⟨64, 61, .bY, 3, 0, false⟩, ⟨69, 65, .rY, 4, 0, false⟩, ⟨70, 70, .bZ, 2, 2, false⟩, ⟨75, 71, .rZ, 4, 0, false⟩,
   ⟨76, 76, .bZ, 3, 3, false⟩, ⟨81, 77, .p, 4, 0, false⟩, ⟨127, 82, .idx, 45, 0, false⟩]

/-- Mode 10 layout (44_bc6h R214). -/
def bc6hLayout10 : List Bc6hRow := [
   ⟨10, 5, .rW, 5, 0, false⟩, ⟨11, 11, .gZ, 4, 4, false⟩, ⟨13, 12, .bZ, 1, 0, false⟩, ⟨14, 14, .bY, 4, 4, false⟩,
   ⟨20, 15, .gW, 5, 0, false⟩, ⟨21, 21, .gY, 5, 5, false⟩, ⟨22, 22, .bY, 5, 5, false⟩, ⟨23, 23, .bZ, 2, 2, false⟩,
   ⟨24, 24, .gY, 4, 4, false⟩, ⟨30, 25, .bW, 5, 0, false⟩, ⟨31, 31, .gZ, 5, 5, false⟩, ⟨32, 32, .bZ, 3, 3, false⟩,
   ⟨33, 33, .bZ, 5, 5, false⟩, ⟨34, 34, .bZ, 4, 4, false⟩, ⟨40, 35, .rX, 5, 0, false⟩, ⟨44, 41, .gY, 3, 0, false⟩,
   ⟨50, 45, .gX, 5, 0, false⟩, ⟨54, 51, .gZ, 3, 0, false⟩, ⟨60, 55, .bX, 5, 0, false⟩, ⟨64, 61, .bY, 3, 0, false⟩,
   ⟨70, 65, .rY, 5, 0, false⟩, ⟨76, 71, .rZ, 5, 0, false⟩, ⟨81, 77, .p, 4, 0, false⟩, ⟨127, 82, .idx, 45, 0, false⟩]

/-- Mode 11 layout (44_bc6h R215). -/
def bc6hLayout11 : List Bc6hRow := [
   ⟨14, 5, .rW, 9, 0, false⟩, ⟨24, 15, .gW, 9, 0, false⟩, ⟨34, 25, .bW, 9, 0, false⟩, ⟨44, 35, .rX, 9, 0, false⟩,
   ⟨54, 45, .gX, 9, 0, false⟩, ⟨64, 55, .bX, 9, 0, false⟩, ⟨127, 65, .idx, 62, 0, false⟩]

/-- Mode 12 layout (44_bc6h R216). -/
def bc6hLayout12 : List Bc6hRow := [
   ⟨14, 5, .rW, 9, 0, false⟩, ⟨24, 15, .gW, 9, 0, false⟩, ⟨34, 25, .bW, 9, 0, false⟩, ⟨43, 35, .rX, 8, 0, false⟩,
   ⟨44, 44, .rW, 10, 10, false⟩, ⟨53, 45, .gX, 8, 0, false⟩, ⟨54, 54, .gW, 10, 10, false⟩, ⟨63, 55, .bX, 8, 0, false⟩,
   ⟨64, 64, .bW, 10, 10, false⟩, ⟨127, 65, .idx, 62, 0, false⟩]

/-- Mode 13 layout (44_bc6h R217). -/
def bc6hLayout13 : List Bc6hRow := [
   ⟨14, 5, .rW, 9, 0, false⟩, ⟨24, 15, .gW, 9, 0, false⟩, ⟨34, 25, .bW, 9, 0, false⟩, ⟨42, 35, .rX, 7, 0, false⟩,
   ⟨44, 43, .rW, 11, 10, true⟩, ⟨52, 45, .gX, 7, 0, false⟩, ⟨54, 53, .gW, 11, 10, true⟩, ⟨62, 55, .bX, 7, 0, false⟩,
   ⟨64, 63, .bW, 11, 10, true⟩, ⟨127, 65, .idx, 62, 0, false⟩]

/-- Mode 14 layout (44_bc6h R218). -/
def bc6hLayout14 : List Bc6hRow := [
   ⟨14, 5, .rW, 9, 0, false⟩, ⟨24, 15, .gW, 9, 0, false⟩, ⟨34, 25, .bW, 9, 0, false⟩, ⟨38, 35, .rX, 3, 0, false⟩,
   ⟨44, 39, .rW, 15, 10, true⟩, ⟨48, 45, .gX, 3, 0, false⟩, ⟨54, 49, .gW, 15, 10, true⟩, ⟨58, 55, .bX, 3, 0, false⟩,
   ⟨64, 59, .bW, 15, 10, true⟩, ⟨127, 65, .idx, 62, 0, false⟩]

/-- The low `n` bits of `v`, most significant first (the reversed rows of 44_bc6h R217, R218). -/
def reverseBits : Nat → Nat → Nat
  | 0, _ => 0
  | n + 1, v => (v % 2) * 2 ^ n + reverseBits n (v / 2)

/-- The field bits a row reads from the block, at their place in the field (44_bc6h R204). -/
def Bc6hRow.read (blk : Nat) (r : Bc6hRow) : Nat :=
  let v := slice blk r.hi r.lo
  (if r.rev then reverseBits (r.hi + 1 - r.lo) v else v) * 2 ^ r.flo

/-- The block bits a row holds for the value `v` of its field. -/
def Bc6hRow.write (v : Nat) (r : Bc6hRow) : Nat :=
  let s := slice v r.fhi r.flo
  if r.rev then reverseBits (r.hi + 1 - r.lo) s else s

/-- The value of a field: the sum over its rows (44_bc6h R204, "assembled bit by bit"). -/
def fieldAt (rows : List Bc6hRow) (blk : Nat) (fld : Bc6hField) : Nat :=
  ((rows.filter (fun r => r.fld = fld)).map (fun r => r.read blk)).sum

/-- Every field of a two-subset block (44_bc6h R204, R219). -/
def Bc6hTwo.ofBlock (rows : List Bc6hRow) (blk : Nat) : Bc6hTwo where
  w := ⟨fieldAt rows blk .rW, fieldAt rows blk .gW, fieldAt rows blk .bW⟩
  x := ⟨fieldAt rows blk .rX, fieldAt rows blk .gX, fieldAt rows blk .bX⟩
  y := ⟨fieldAt rows blk .rY, fieldAt rows blk .gY, fieldAt rows blk .bY⟩
  z := ⟨fieldAt rows blk .rZ, fieldAt rows blk .gZ, fieldAt rows blk .bZ⟩
  p := fieldAt rows blk .p
  idx := fieldAt rows blk .idx

/-- Every field of a one-subset block (44_bc6h R204, R219). -/
def Bc6hOne.ofBlock (rows : List Bc6hRow) (blk : Nat) : Bc6hOne where
  w := ⟨fieldAt rows blk .rW, fieldAt rows blk .gW, fieldAt rows blk .bW⟩
  x := ⟨fieldAt rows blk .rX, fieldAt rows blk .gX, fieldAt rows blk .bX⟩
  idx := fieldAt rows blk .idx

/-- A two-subset block's fields by name. -/
def Bc6hTwo.get (f : Bc6hTwo) : Bc6hField → Nat
  | .rW => f.w.r
  | .gW => f.w.g
  | .bW => f.w.b
  | .rX => f.x.r
  | .gX => f.x.g
  | .bX => f.x.b
  | .rY => f.y.r
  | .gY => f.y.g
  | .bY => f.y.b
  | .rZ => f.z.r
  | .gZ => f.z.g
  | .bZ => f.z.b
  | .p => f.p
  | .idx => f.idx

/-- A one-subset block's fields by name; it has no `y`, `z` and no partition. -/
def Bc6hOne.get (f : Bc6hOne) : Bc6hField → Nat
  | .rW => f.w.r
  | .gW => f.w.g
  | .bW => f.w.b
  | .rX => f.x.r
  | .gX => f.x.g
  | .bX => f.x.b
  | .rY | .gY | .bY | .rZ | .gZ | .bZ | .p => 0
  | .idx => f.idx

/-- The BC6H mode of a block (44_bc6h R200, 30_encoding R66): the 2-bit field, or else the 5-bit one. The last line is code
0x1F, since every other code whose low bits are 10 or 11 stands above it. -/
def bc6hModeOf (blk : Nat) : Bc6hMode :=
  if slice blk 1 0 = 0 then .m1
  else if slice blk 1 0 = 1 then .m2
  else
    match slice blk 4 0 with
    | 0x02 => .m3
    | 0x06 => .m4
    | 0x0A => .m5
    | 0x0E => .m6
    | 0x12 => .m7
    | 0x16 => .m8
    | 0x1A => .m9
    | 0x1E => .m10
    | 0x03 => .m11
    | 0x07 => .m12
    | 0x0B => .m13
    | 0x0F => .m14
    | 0x13 => .r13
    | 0x17 => .r17
    | 0x1B => .r1B
    | _ => .r1F

/-- The block-level instruction of a BC6H block (44_bc6h R200 to R218). -/
def decodeBc6h (sg : Signedness) (x y : Coord) (blk : Nat) : Instr :=
  match bc6hModeOf blk with
  | .m1 => .bc6hMode1 sg x y (Bc6hTwo.ofBlock bc6hLayout1 blk)
  | .m2 => .bc6hMode2 sg x y (Bc6hTwo.ofBlock bc6hLayout2 blk)
  | .m3 => .bc6hMode3 sg x y (Bc6hTwo.ofBlock bc6hLayout3 blk)
  | .m4 => .bc6hMode4 sg x y (Bc6hTwo.ofBlock bc6hLayout4 blk)
  | .m5 => .bc6hMode5 sg x y (Bc6hTwo.ofBlock bc6hLayout5 blk)
  | .m6 => .bc6hMode6 sg x y (Bc6hTwo.ofBlock bc6hLayout6 blk)
  | .m7 => .bc6hMode7 sg x y (Bc6hTwo.ofBlock bc6hLayout7 blk)
  | .m8 => .bc6hMode8 sg x y (Bc6hTwo.ofBlock bc6hLayout8 blk)
  | .m9 => .bc6hMode9 sg x y (Bc6hTwo.ofBlock bc6hLayout9 blk)
  | .m10 => .bc6hMode10 sg x y (Bc6hTwo.ofBlock bc6hLayout10 blk)
  | .m11 => .bc6hMode11 sg x y (Bc6hOne.ofBlock bc6hLayout11 blk)
  | .m12 => .bc6hMode12 sg x y (Bc6hOne.ofBlock bc6hLayout12 blk)
  | .m13 => .bc6hMode13 sg x y (Bc6hOne.ofBlock bc6hLayout13 blk)
  | .m14 => .bc6hMode14 sg x y (Bc6hOne.ofBlock bc6hLayout14 blk)
  | .r13 => .bc6hReserved13 sg x y (slice blk 127 5)
  | .r17 => .bc6hReserved17 sg x y (slice blk 127 5)
  | .r1B => .bc6hReserved1B sg x y (slice blk 127 5)
  | .r1F => .bc6hReserved1F sg x y (slice blk 127 5)

/-! ## BC7 blocks -/

/-- The lowest set bit of `v`, looked for in `fuel` bits from bit `start` up; `none` if they are all 0. -/
def lowestSet (v : Nat) : Nat → Nat → Option Nat
  | 0, _ => none
  | fuel + 1, start => if v.testBit start then some start else lowestSet v fuel (start + 1)

/-- The BC7 mode of a block (45_bc7 R260, 30_encoding R67): the lowest set bit of `BLK[7:0]`, or the reserved block. -/
def bc7ModeOf (blk : Nat) : Bc7Mode :=
  match lowestSet blk 8 0 with
  | some 0 => .m0
  | some 1 => .m1
  | some 2 => .m2
  | some 3 => .m3
  | some 4 => .m4
  | some 5 => .m5
  | some 6 => .m6
  | some 7 => .m7
  | _ => .reserved

/-- The fields of a BC7 block of mode number `m` with descriptor `d`, each read at the next free bit (45_bc7 R262). -/
def Bc7Fields.ofBlock (m : Nat) (d : Machine.Bc7Desc) (blk : Nat) : Bc7Fields :=
  let c : Cursor := (Cursor.mk blk 0).skip (m + 1)
  let (p, c) := c.read d.pb
  let (rot, c) := c.read d.rb
  let (isel, c) := c.read d.isb
  let (r, c) := c.readMany d.cb d.endpoints
  let (g, c) := c.readMany d.cb d.endpoints
  let (b, c) := c.readMany d.cb d.endpoints
  let (a, c) := c.readMany d.ab d.alphaEndpoints
  let (pb, c) := c.readMany 1 d.pbits
  let (idx1, c) := c.read d.idx1Bits
  let (idx2, _) := c.read d.idx2Bits
  ⟨p, rot, isel, r, g, b, a, pb, idx1, idx2⟩

/-- The fields of a BC7 block in the block's order, with their widths (45_bc7 R262). -/
def Bc7Fields.pieces (d : Machine.Bc7Desc) (f : Bc7Fields) : List (Nat × Nat) :=
  [(f.p, d.pb), (f.rot, d.rb), (f.isel, d.isb)] ++
    (f.r.map (·, d.cb) ++ f.g.map (·, d.cb) ++ f.b.map (·, d.cb) ++ f.a.map (·, d.ab) ++ f.pb.map (·, 1) ++
    [(f.idx1, d.idx1Bits), (f.idx2, d.idx2Bits)])

/-- A BC7 block of mode number `m`: bit `m` set, the bits below it 0, then the fields (45_bc7 R260, R262). -/
def Bc7Fields.toBlock (m : Nat) (d : Machine.Bc7Desc) (f : Bc7Fields) : Nat := pack ((2 ^ m, m + 1) :: f.pieces d)

/-- The block-level instruction of a BC7 block (45_bc7 R260 to R271). -/
def decodeBc7 (x y : Coord) (blk : Nat) : Instr :=
  match bc7ModeOf blk with
  | .m0 => .bc7Mode0 x y (Bc7Fields.ofBlock 0 (Machine.bc7Desc .m0) blk)
  | .m1 => .bc7Mode1 x y (Bc7Fields.ofBlock 1 (Machine.bc7Desc .m1) blk)
  | .m2 => .bc7Mode2 x y (Bc7Fields.ofBlock 2 (Machine.bc7Desc .m2) blk)
  | .m3 => .bc7Mode3 x y (Bc7Fields.ofBlock 3 (Machine.bc7Desc .m3) blk)
  | .m4 => .bc7Mode4 x y (Bc7Fields.ofBlock 4 (Machine.bc7Desc .m4) blk)
  | .m5 => .bc7Mode5 x y (Bc7Fields.ofBlock 5 (Machine.bc7Desc .m5) blk)
  | .m6 => .bc7Mode6 x y (Bc7Fields.ofBlock 6 (Machine.bc7Desc .m6) blk)
  | .m7 => .bc7Mode7 x y (Bc7Fields.ofBlock 7 (Machine.bc7Desc .m7) blk)
  | .reserved => .bc7ReservedMode x y (slice blk 127 8)

/-! ## Both levels as one code -/

/-- What an instruction is encoded as: a request, or a block together with the command word of the request that decodes it (which
gives the block its format, its signedness and the pixel). -/
inductive Code where
  | request (q : Request)
  | block (cmd : Word16) (blk : Nat)
deriving DecidableEq, Repr

/-- The decoder, over both levels. A block is read as the op of its command word says (30_encoding R61, R65). -/
def decodeCode : Code → Except DecodeError Instr
  | .request q => (decodeRequest q).mapError .request
  | .block cmd blk =>
    match (cmdOp cmd).toNat with
    | 0x4 => .ok (decodeBc6h .uf16 (cmdX cmd) (cmdY cmd) blk)
    | 0x5 => .ok (decodeBc6h .sf16 (cmdX cmd) (cmdY cmd) blk)
    | 0x6 => .ok (decodeBc7 (cmdX cmd) (cmdY cmd) blk)
    | _ => .error .noBlockLevel

/-- A BC6H block from its mode code and fields, by the mode's layout (44_bc6h R204). -/
def packRows (code len : Nat) (rows : List Bc6hRow) (get : Bc6hField → Nat) : Nat :=
  pack ((code, len) :: rows.map (fun r => (r.write (get r.fld), r.hi + 1 - r.lo)))

/-- The command word of a BC6H request: the op holds the signedness (30_encoding R61). -/
def bc6hCmd (sg : Signedness) (x y : Coord) : Word16 :=
  match sg with
  | .uf16 => mkCmd 0x4 x y 0
  | .sf16 => mkCmd 0x5 x y 0

/-- The encoder (30_encoding R61; 44_bc6h R200, R205 to R218; 45_bc7 R260, R262). -/
def encode : Instr → Code
  | .decBc1 x y off => .request ⟨mkCmd 0x0 x y 0, off⟩
  | .decBc3 x y off => .request ⟨mkCmd 0x1 x y 0, off⟩
  | .decBc4 x y off => .request ⟨mkCmd 0x2 x y 0, off⟩
  | .decBc5 x y off => .request ⟨mkCmd 0x3 x y 0, off⟩
  | .decBc6hUf16 x y off => .request ⟨mkCmd 0x4 x y 0, off⟩
  | .decBc6hSf16 x y off => .request ⟨mkCmd 0x5 x y 0, off⟩
  | .decBc7 x y off => .request ⟨mkCmd 0x6 x y 0, off⟩
  | .reservedOp7 x y rsv off => .request ⟨mkCmd 0x7 x y rsv, off⟩
  | .reservedOp8toF low x y rsv off => .request ⟨mkCmd (1#1 ++ low) x y rsv, off⟩
  | .bc6hMode1 sg x y f => .block (bc6hCmd sg x y) (packRows 0x0 2 bc6hLayout1 f.get)
  | .bc6hMode2 sg x y f => .block (bc6hCmd sg x y) (packRows 0x1 2 bc6hLayout2 f.get)
  | .bc6hMode3 sg x y f => .block (bc6hCmd sg x y) (packRows 0x02 5 bc6hLayout3 f.get)
  | .bc6hMode4 sg x y f => .block (bc6hCmd sg x y) (packRows 0x06 5 bc6hLayout4 f.get)
  | .bc6hMode5 sg x y f => .block (bc6hCmd sg x y) (packRows 0x0A 5 bc6hLayout5 f.get)
  | .bc6hMode6 sg x y f => .block (bc6hCmd sg x y) (packRows 0x0E 5 bc6hLayout6 f.get)
  | .bc6hMode7 sg x y f => .block (bc6hCmd sg x y) (packRows 0x12 5 bc6hLayout7 f.get)
  | .bc6hMode8 sg x y f => .block (bc6hCmd sg x y) (packRows 0x16 5 bc6hLayout8 f.get)
  | .bc6hMode9 sg x y f => .block (bc6hCmd sg x y) (packRows 0x1A 5 bc6hLayout9 f.get)
  | .bc6hMode10 sg x y f => .block (bc6hCmd sg x y) (packRows 0x1E 5 bc6hLayout10 f.get)
  | .bc6hMode11 sg x y f => .block (bc6hCmd sg x y) (packRows 0x03 5 bc6hLayout11 f.get)
  | .bc6hMode12 sg x y f => .block (bc6hCmd sg x y) (packRows 0x07 5 bc6hLayout12 f.get)
  | .bc6hMode13 sg x y f => .block (bc6hCmd sg x y) (packRows 0x0B 5 bc6hLayout13 f.get)
  | .bc6hMode14 sg x y f => .block (bc6hCmd sg x y) (packRows 0x0F 5 bc6hLayout14 f.get)
  | .bc6hReserved13 sg x y rest => .block (bc6hCmd sg x y) (pack [(0x13, 5), (rest, 123)])
  | .bc6hReserved17 sg x y rest => .block (bc6hCmd sg x y) (pack [(0x17, 5), (rest, 123)])
  | .bc6hReserved1B sg x y rest => .block (bc6hCmd sg x y) (pack [(0x1B, 5), (rest, 123)])
  | .bc6hReserved1F sg x y rest => .block (bc6hCmd sg x y) (pack [(0x1F, 5), (rest, 123)])
  | .bc7Mode0 x y f => .block (mkCmd 0x6 x y 0) (f.toBlock 0 (Machine.bc7Desc .m0))
  | .bc7Mode1 x y f => .block (mkCmd 0x6 x y 0) (f.toBlock 1 (Machine.bc7Desc .m1))
  | .bc7Mode2 x y f => .block (mkCmd 0x6 x y 0) (f.toBlock 2 (Machine.bc7Desc .m2))
  | .bc7Mode3 x y f => .block (mkCmd 0x6 x y 0) (f.toBlock 3 (Machine.bc7Desc .m3))
  | .bc7Mode4 x y f => .block (mkCmd 0x6 x y 0) (f.toBlock 4 (Machine.bc7Desc .m4))
  | .bc7Mode5 x y f => .block (mkCmd 0x6 x y 0) (f.toBlock 5 (Machine.bc7Desc .m5))
  | .bc7Mode6 x y f => .block (mkCmd 0x6 x y 0) (f.toBlock 6 (Machine.bc7Desc .m6))
  | .bc7Mode7 x y f => .block (mkCmd 0x6 x y 0) (f.toBlock 7 (Machine.bc7Desc .m7))
  | .bc7ReservedMode x y rest => .block (mkCmd 0x6 x y 0) (pack [(0, 8), (rest, 120)])

/-- A code fits its place: an offset of `addrW` bits (30_encoding R60), a block of 128 bits (44_bc6h, 45_bc7). -/
def Code.fits (addrW : Nat) : Code → Bool
  | .request q => decide (q.off < 2 ^ addrW)
  | .block _ blk => decide (blk < 2 ^ 128)

/-! ## The words of the opcode table -/

/-- A word that, in a table row of one byte, is the mode field of BC7 mode 4, 5, 6 or 7 (opcode_table.json, 45_bc7 R260). -/
def isBc7TableWord (w : Nat) : Bool := w = 0x10 || w = 0x20 || w = 0x40 || w = 0x80

/-- Which code a word of the opcode table is (log 2). The table numbers two levels with the same small numbers, and a word does
not say its level. More than eight bits are a request: `cmd`, then `off` above it. Of the one-byte words, those that are a
request row's own match (0x00 to 0x08) are that request; of the others, those of a BC7 mode are a BC7 block, the rest a BC6H
block (unsigned), each decoded for pixel (0, 0). -/
def tableCode (nbits w : Nat) : Code :=
  if 8 < nbits ∨ w ≤ 8 then .request ⟨BitVec.ofNat 16 w, w >>> 16⟩
  else if isBc7TableWord w then .block (mkCmd 0x6 0 0 0) w
  else .block (mkCmd 0x4 0 0 0) w

/-- The instruction of an opcode-table word: what the decoder reads from its code. -/
def decodeTableWord (nbits w : Nat) : Option Instr := (decodeCode (tableCode nbits w)).toOption

end Sys2Proof
end

