-- ==== Sys2Proof/Machine/Flags.lean ====
section
/-! DEFINITION. The hardware has no flags (10_state R25). What it computes by a compare is the palette mode of one block, a
transient value of one request (R26). -/

namespace Sys2Proof.Machine

/-- BC1 `four_colour`: `c0 > c1` as raw 16-bit integers, once per block (42_bc1_bc3 R152). -/
def fourColour (c0 c1 : Nat) : Bool := decide (c1 < c0)

/-- BC4 `eight_value`: `e0 > e1`, once per plane (43_bc4_bc5 R171). -/
def eightValue (e0 e1 : Nat) : Bool := decide (e1 < e0)

end Sys2Proof.Machine
end

