-- ==== Sys2Proof/Config.lean ====
section
/-! DEFINITION. The implementation parameters of 00_scope R8, and the one free value of the model. `N_UNITS` is the length of
`State.units`, `BUF_LEN` the launch's (`State.launch`), `OUT_FMT` the type `F32`. -/

namespace Sys2Proof

/-- `BC3_COLOR_MODE` (R8, 42_bc1_bc3 R160, D10): how the colour half of a BC3 block chooses its palette. -/
inductive Bc3ColorMode where
  | bc1Rules
  | alwaysFour
deriving DecidableEq, Repr

/-- The parameter `toF32` (R8, 40_primitives R104, R105, D8). `rne32` is the default; `anyFaithful` is any function with
the properties P1 to P4 of R105 and no others: where the result is open it is decided by the free value `Config.roundCut`
(log 10). -/
inductive ToF32 where
  | rne32
  | anyFaithful
deriving DecidableEq, Repr

/-- The parameters of one array, fixed while it runs: no step of the machine changes them. -/
structure Config where
  /-- `ADDR_W`, the width in bits of `off` and of buffer addresses, at least 1 (R8, R40, D4). It bounds both: `State.mayMove`,
  `State.Inv`. -/
  addrW : Nat
  /-- `toF32` (R104). -/
  toF32 : ToF32
  /-- `BC3_COLOR_MODE` (R160). -/
  bc3ColorMode : Bc3ColorMode
  /-- `BC6H_SF16_BYPASS16` (44_bc6h R223, D13). -/
  bc6hSf16Bypass16 : Bool
  /-- `BC6H_SF16_NEG_ZERO` (44_bc6h R228, D14). -/
  bc6hSf16NegZero : Bool
deriving DecidableEq, Repr

/-- The spec's defaults (R8). `ADDR_W` is OPEN there: 32 is this model's DESIGN CHOICE (log 7), and no statement rests on it. -/
def Config.default : Config where
  addrW := 32
  toF32 := .rne32
  bc3ColorMode := .bc1Rules
  bc6hSf16Bypass16 := true
  bc6hSf16NegZero := false

/-- FREE VALUE (log 10). Under `ToF32.anyFaithful`, where in the gap above the binary32 pattern `lo` rounding turns from down to
up: at the fraction `c.1 / (c.2 + 1)` of the gap, `c = roundCut lo`. Nothing is known of it. -/
opaque Config.roundCut : Nat → Nat × Nat

end Sys2Proof
end

