-- ==== Sys2Proof/Machine/Float.lean ====
section
/-! DEFINITION. The floating-point primitives (40_primitives R103 to R105, R109): widening a binary16 pattern, and turning an exact
rational into a binary32 word. -/

namespace Sys2Proof.Machine

/-- 0.0 (R109). -/
def f32Zero : F32 := 0x00000000

/-- 1.0 (R109). -/
def f32One : F32 := 0x3F800000

/-- `half_to_float(h)` (R103), by the cases of the binary16 exponent and fraction: zero, subnormal (a normal binary32, its
leading one at bit `log2 f`), normal, infinity and NaN (fraction kept, `f << 13`). -/
def halfToFloat (h : Word16) : F32 :=
  let s := h.toNat / 2 ^ 15
  let e := h.toNat / 2 ^ 10 % 2 ^ 5
  let f := h.toNat % 2 ^ 10
  let mag :=
    if e = 0 then
      if f = 0 then 0 else (f.log2 + 103) * 2 ^ 23 + (f - 2 ^ f.log2) * 2 ^ (23 - f.log2)
    else if e = 31 then 255 * 2 ^ 23 + f * 2 ^ 13
    else (e + 112) * 2 ^ 23 + f * 2 ^ 13
  BitVec.ofNat 32 (s * 2 ^ 31 + mag)

/-- The biased binary32 exponent of the numbers around `q`: that of the largest power of two not above `q`, at least 1 (the
subnormals share it). -/
def expField (q : Frac) : Nat :=
  if q.num = 0 then 1
  else max 1 (q.num.log2 + 127 - (q.den.log2 + if q.num * 2 ^ q.den.log2 < q.den * 2 ^ q.num.log2 then 1 else 0))

/-- `q` in units of the last place of its binary32 neighbours, numerator. -/
def ulpNum (q : Frac) : Nat := q.num * 2 ^ (150 - expField q)

/-- `q` in units of the last place of its binary32 neighbours, denominator. -/
def ulpDen (q : Frac) : Nat := q.den * 2 ^ (expField q - 150)

/-- The largest binary32 pattern not above `q`. The patterns of the non-negative numbers are in the numbers' own order, so
the next number above is the next pattern. -/
def floorPattern (q : Frac) : Nat := (expField q - 1) * 2 ^ 23 + ulpNum q / ulpDen q

/-- Round to nearest, ties to even: up past the middle of the gap, and at the middle to the even pattern (R104). -/
def rne32Up (q : Frac) : Bool :=
  let r := ulpNum q % ulpDen q
  decide (ulpDen q < 2 * r) || (decide (2 * r = ulpDen q) && decide (floorPattern q % 2 = 1))

/-- Whether a value k/255 lies in the gap of `q`: there R105 P4 fixes the result of every setting. It is enough to look at the
two such values around `q`. -/
def nearByteQuotient (q : Frac) : Bool :=
  let k := 255 * q.num / q.den
  decide (floorPattern ⟨k, 255⟩ = floorPattern q) || decide (floorPattern ⟨k + 1, 255⟩ = floorPattern q)

/-- The setting `anyFaithful`: up from the point `Config.roundCut` of the gap on, a free value (log 10). So the result is exact
where `q` is a binary32 number, one of the two neighbours of `q` otherwise, and does not fall where `q` rises (R105 P1 to P3). -/
def faithfulUp (q : Frac) : Bool :=
  if nearByteQuotient q then rne32Up q
  else
    let r := ulpNum q % ulpDen q
    let c := Config.roundCut (floorPattern q)
    decide (r ≠ 0) && decide (c.1 * ulpDen q ≤ r * (c.2 + 1))

/-- Whether a setting rounds `q` up. -/
def roundsUp (m : ToF32) (q : Frac) : Bool :=
  match m with
  | .rne32 => rne32Up q
  | .anyFaithful => faithfulUp q

/-- `toF32(q)` (R104, R105). Every LDR value is in [0, 1]; above the binary32 range the function answers infinity (log 17). -/
def toF32 (m : ToF32) (q : Frac) : F32 :=
  BitVec.ofNat 32 (min 0x7F800000 (floorPattern q + if roundsUp m q then 1 else 0))

end Sys2Proof.Machine
end

