-- ==== Sys2Proof/Machine/Operands.lean ====
section
/-! DEFINITION. The shared integer primitives and operand forms: pixel index, floor shift, `interpolate`, `unq8`, `sext`, index
fields with anchors (00_scope R12, R15; 40_primitives R100 to R102; 44_bc6h R224, 45_bc7 R277). -/

namespace Sys2Proof.Machine

/-- The pixel index `i = 4·y + x` (00_scope R15). -/
def pixelIndex (x y : Coord) : Nat := 4 * y.toNat + x.toNat

/-- `a >> n = floor(a / 2^n)`, for negative `a` too (00_scope R12, D12). -/
def asr (a : Int) (n : Nat) : Int := a / 2 ^ n

/-- `interpolate(e0, e1, w)` (40_primitives R100). -/
def interpolate (e0 e1 : Int) (w : Nat) : Int := asr (e0 * (64 - w) + e1 * w + 32) 6

/-- `unq8(v, n)` (40_primitives R101, conflict C8: the second shift is of the shifted value). -/
def unq8 (v n : Nat) : Nat :=
  if 8 ≤ n then v
  else
    let t := v * 2 ^ (8 - n)
    t ||| (t >>> n)

/-- `zext_n(v)` (00_scope R13). -/
def zext (n v : Nat) : Nat := v % 2 ^ n

/-- `sext_n(v)`: `v` read as an n-bit two's-complement integer (40_primitives R102). -/
def sext (n v : Nat) : Int :=
  if (zext n v).testBit (n - 1) then (zext n v : Int) - 2 ^ n else zext n v

/-- The bits of index `j` in an array of width `b`: one fewer for an anchor (44_bc6h R224, 45_bc7 R277). -/
def indexLen (b : Nat) (anchors : List Nat) (j : Nat) : Nat := b - if j ∈ anchors then 1 else 0

/-- Where index `i` starts, counted from the start of the index field: past the indices of the pixels before it. -/
def indexPos (b : Nat) (anchors : List Nat) (i : Nat) : Nat := ((List.range i).map (indexLen b anchors)).sum

/-- `idx(i)`, cut from the index field; an anchor's top bit is 0 (44_bc6h R224, 45_bc7 R277). -/
def indexAt (field b : Nat) (anchors : List Nat) (i : Nat) : Nat :=
  (field >>> indexPos b anchors i) % 2 ^ indexLen b anchors i

end Sys2Proof.Machine
end

