-- ==== Sys2Proof/Machine/State.lean ====
section
/-! DEFINITION. The state of the array as plain data (10_state), what its requests end in (60_exceptions R300), and the state
after reset (R30, 70 R330). -/

namespace Sys2Proof.Machine

/-- One decoder unit: idle, or busy with the one request in its operand latch (10_state R20, R23). -/
structure DecoderUnit where
  latch : Option Request
deriving DecidableEq, Repr

/-- The one fault (60_exceptions R302). -/
inductive FaultKind where
  | blockOutOfBounds
deriving DecidableEq, Repr

/-- The refusals (60_exceptions R303). -/
inductive RefuseKind where
  | reservedOp
  | reservedField
deriving DecidableEq, Repr

/-- The code of a fault (60_exceptions R302, R304). -/
def FaultKind.code : FaultKind → Nat
  | .blockOutOfBounds => 1

/-- The code of a refusal (60_exceptions R303, R304). -/
def RefuseKind.code : RefuseKind → Nat
  | .reservedOp => 2
  | .reservedField => 3

/-- The fault record `(code, cmd, off, S)` the host gets in place of a response (60_exceptions R307). -/
structure FaultRecord where
  code : Nat
  cmd : Word16
  off : Nat
  size : Nat
deriving DecidableEq, Repr

/-- The outcome of a request: exactly one of the three (60_exceptions R300). -/
inductive ReqOutcome where
  | response (c : Color)
  | fault (r : FaultRecord)
  | refused (k : RefuseKind)
deriving DecidableEq, Repr

/-- An outcome in the host's hands, tagged with its request (70 R338). -/
structure Delivered where
  req : Request
  outcome : ReqOutcome
deriving DecidableEq, Repr

/-- What the host can do to the array (70 R340). -/
inductive HostMove where
  /-- Hand over a read-only buffer, byte 0 first. -/
  | launch (bytes : List Byte)
  /-- Issue a request to a unit. -/
  | issue (unit : Nat) (req : Request)
  /-- Assert reset. -/
  | reset
  /-- Take the buffer back. -/
  | endLaunch
deriving DecidableEq, Repr

/-- Who can move (10_state R20): the host, or a decoder unit. -/
inductive Agent where
  | host
  | unit (n : Nat)
deriving DecidableEq, Repr

/-- The state of the array and its surroundings. -/
structure State where
  /-- The implementation parameters (00_scope R8); no step changes them. -/
  cfg : Config
  /-- The decoder units; there are `N_UNITS` of them (10_state R20). -/
  units : List DecoderUnit
  /-- `BUF_LEN` of the open launch, if one is open (20_memory R40). -/
  launch : Option Nat
  /-- The launch buffer's bytes, in the canonical form `Memory.wf`: addresses strictly rising, no zero byte (20_memory R40). -/
  mem : List Host.Cell
  /-- The outcomes delivered to the host, oldest first (10_state R24, 60_exceptions R300). -/
  outcomes : List Delivered
  /-- The model's own: how many outcomes had been delivered when the open launch began (once it is closed: the last one). Those
  after them are the launch's, from which the end state of its program is read (70 R334; log 18). -/
  launchStart : Nat
  /-- The model's own: the moves the host will make, in order (70 R333, R340; log 11). -/
  host : List HostMove
  /-- The model's own: who moves next, in order (70 R338; log 11). -/
  schedule : List Agent
deriving DecidableEq, Repr

/-- Why the machine stops. -/
inductive Fault where
  /-- Raised by a meaning (through `deliver`, `takeFault` and `refuse`) that is run where no unit's request is next to be
  served. `step` never does that: it runs an instruction only for the request it serves. Safe (log 14). -/
  | noRequest
deriving DecidableEq, Repr

/-- Why an instruction has no meaning. -/
inductive Refusal where
  /-- Raised by an arm of `exec` that has no meaning yet; there is none. Safe. -/
  | notModelled (mnemonic : String)
deriving DecidableEq, Repr

/-- The machine after reset (10_state R30, 70 R330): every unit idle, no outcome pending, no launch. One unit and a 32-bit `off`
are this model's DESIGN CHOICE for two OPEN parameters (logs 6 and 7). -/
def State.reset : State where
  cfg := Config.default
  units := [⟨none⟩]
  launch := none
  mem := []
  outcomes := []
  launchStart := 0
  host := []
  schedule := []

end Sys2Proof.Machine
end

