-- ==== Sys2Proof/Machine/Ops.lean ====
section
/-! DEFINITION. The named operations over the state: the launch buffer, whose turn it is, ending a request (response, fault,
refusal), the block fetch, and loading an instruction for `State.withFetchWord`. -/

namespace Sys2Proof.Machine

/-! ## The launch buffer (20_memory) -/

/-- The byte an address holds in a list of cells. An address that is not listed reads 0: that is how a buffer is written down
(log 8), and every buffer the host can hand over has exactly one such list. -/
def Memory.read : List Host.Cell → Nat → Byte
  | [], _ => 0
  | (a, b) :: rest, addr => if a = addr then b else Memory.read rest addr

/-- The cells of a list of bytes that starts at address `base`. -/
def Memory.ofBytes (base : Nat) : List Byte → List Host.Cell
  | [] => []
  | b :: rest => if b = 0 then Memory.ofBytes (base + 1) rest else (base, b) :: Memory.ofBytes (base + 1) rest

/-- One byte written, the canonical form kept: a zero byte is not listed. No instruction writes memory (20_memory R41); only
placing a block for `State.withFetchWord` does. -/
def Memory.write (addr : Nat) (v : Byte) : List Host.Cell → List Host.Cell
  | [] => if v = 0 then [] else [(addr, v)]
  | (a, b) :: rest =>
    if a < addr then (a, b) :: Memory.write addr v rest
    else if a = addr then (if v = 0 then rest else (addr, v) :: rest)
    else if v = 0 then (a, b) :: rest
    else (addr, v) :: (a, b) :: rest

/-- Every address is at least `lo` and the addresses rise strictly, and no zero byte is listed. -/
def Memory.wfFrom (lo : Nat) : List Host.Cell → Bool
  | [] => true
  | (a, b) :: rest => decide (lo ≤ a) && decide (b ≠ 0) && Memory.wfFrom (a + 1) rest

/-- The canonical form of a buffer of `len` bytes: strictly rising addresses below `len`, no zero byte. -/
def Memory.wf (len : Nat) (m : List Host.Cell) : Bool := Memory.wfFrom 0 m && m.all (fun c => decide (c.1 < len))

/-- One byte of the launch buffer; none at an address that does not exist: at or above `BUF_LEN`, or with no launch (20_memory
R40, R42). `BUF_LEN` is at most `2 ^ ADDR_W` (`State.Inv`), so an address that exists has `ADDR_W` bits (R40). -/
def State.readByte (s : State) (addr : Nat) : Option Byte :=
  match s.launch with
  | none => none
  | some len => if addr < len then some (Memory.read s.mem addr) else none

/-- `MemRead(addr, n)`: `Σ_{k<n} buf[addr+k] · 2^(8k)`, none if any of the bytes does not exist (20_memory R42). -/
def State.memRead (s : State) (addr : Nat) : Nat → Option Nat
  | 0 => some 0
  | n + 1 =>
    match s.readByte addr, s.memRead (addr + 1) n with
    | some b, some rest => some (b.toNat + 2 ^ 8 * rest)
    | _, _ => none

/-! ## Whose turn it is (70 R338, log 11) -/

/-- What the next step does. -/
inductive Turn where
  /-- Unit `u` serves its request `q`; `rest` is the schedule after it. -/
  | serve (u : Nat) (q : Request) (rest : List Agent)
  /-- The host moves. -/
  | host (rest : List Agent)
  /-- An idle unit has the turn: "simply waiting for a request" (60_exceptions R314). -/
  | wait (rest : List Agent)
deriving DecidableEq, Repr

/-- The request in a unit's latch; none if it is idle or there is no such unit. -/
def State.latchOf (s : State) (u : Nat) : Option Request := (s.units.getD u ⟨none⟩).latch

/-- The first busy unit, counting from `u`, and its request. -/
def firstBusy (u : Nat) : List DecoderUnit → Option (Nat × Request)
  | [] => none
  | d :: rest =>
    match d.latch with
    | some q => some (u, q)
    | none => firstBusy (u + 1) rest

/-- The schedule says who moves. When it is used up, the first busy unit does, or else the host, so that every request is
served (70 R339). -/
def State.turn (s : State) : Turn :=
  match s.schedule with
  | .unit u :: rest =>
    match s.latchOf u with
    | some q => .serve u q rest
    | none => .wait rest
  | .host :: rest => .host rest
  | [] =>
    match firstBusy 0 s.units with
    | some (u, q) => .serve u q []
    | none => .host []

/-! ## Ending a request (60_exceptions R300, R307, R308) -/

/-- Unit `u`'s request `q` ends with outcome `o`: the host has it, and the unit is idle. Nothing else changes. -/
def State.finish (s : State) (u : Nat) (q : Request) (rest : List Agent) (o : ReqOutcome) : State :=
  { s with units := s.units.set u ⟨none⟩, outcomes := s.outcomes ++ [⟨q, o⟩], schedule := rest }

/-- End the request being served. Its tag is the request in the unit's latch. -/
def deliver (o : Request → ReqOutcome) (s : State) : Host.Outcome State Fault Refusal :=
  match s.turn with
  | .serve u q rest => .next (s.finish u q rest (o q))
  | .host _ => .fault .noRequest
  | .wait _ => .fault .noRequest

/-- End the request with a response (10_state R24). -/
def respond (c : Color) (s : State) : Host.Outcome State Fault Refusal := deliver (fun _ => .response c) s

/-- Taking the exception: the request ends at once with the fault record `(code, cmd, off, S)` in place of a response. No state is
saved, control moves nowhere, and the unit is idle (60_exceptions R302, R307; there is no return, R308). -/
def takeFault (k : FaultKind) (size : Nat) (s : State) : Host.Outcome State Fault Refusal :=
  deliver (fun q => .fault ⟨k.code, q.cmd, q.off, size⟩) s

/-- The request ends in a refusal: no memory read, no response (60_exceptions R303). -/
def refuse (k : RefuseKind) (s : State) : Host.Outcome State Fault Refusal := deliver (fun _ => .refused k) s

/-! ## The block fetch (20_memory R43) -/

/-- `BLK <- FetchBlock(off, S)`, then the response of the block; the fault if the block is not wholly inside the buffer, before
any field is decoded. -/
def withBlock (off size : Nat) (k : Nat → State → Host.Outcome State Fault Refusal) (s : State) :
    Host.Outcome State Fault Refusal :=
  match s.memRead off size with
  | some blk => k blk s
  | none => takeFault .blockOutOfBounds size s

/-! ## Loading one instruction (used by `State.withFetchWord`, log 3) -/

/-- `n` bytes of the integer `v`, low byte first (20_memory R46). -/
def bytesOf (v : Nat) : Nat → List Byte
  | 0 => []
  | n + 1 => BitVec.ofNat 8 v :: bytesOf (v / 2 ^ 8) n

/-- Bytes written from address `addr` up. -/
def Memory.writeBytes (addr : Nat) : List Byte → List Host.Cell → List Host.Cell
  | [], m => m
  | b :: rest, m => Memory.writeBytes (addr + 1) rest (Memory.write addr b m)

/-- Unit 0 holds the request, and has the next turn. -/
def State.loadRequest (s : State) (q : Request) : State :=
  { s with units := ⟨some q⟩ :: s.units.tail, schedule := .unit 0 :: s.schedule }

/-- A request is issued in a launch (70 R333 row 1): if none is open, one with a buffer of 16 zero bytes is (or as many as
`ADDR_W` bits can address). -/
def State.ensureLaunch (s : State) : State :=
  match s.launch with
  | some _ => s
  | none => { s with launch := some (min 16 (2 ^ s.cfg.addrW)), mem := [], launchStart := s.outcomes.length }

/-- The launch buffer holds the block at offset 0, and is long enough for it. -/
def State.placeBlock (s : State) (blk : Nat) : State :=
  { s with
    launch := some (max 16 (s.launch.getD 16))
    mem := Memory.writeBytes 0 (bytesOf blk 16) s.mem }

/-- The state in which the next step runs the instruction of a code. A block-level instruction runs in the request whose command
word stands in the code, with the block at offset 0. -/
def State.loadCode (s : State) : Code → State
  | .request q => s.ensureLaunch.loadRequest q
  | .block cmd blk => (s.ensureLaunch.placeBlock blk).loadRequest ⟨cmd, 0⟩

end Sys2Proof.Machine
end

