-- ==== Sys2Proof/Machine/Bc4Bc5.lean ====
section
/-! DEFINITION. The BC4 plane, `DEC.BC4` and `DEC.BC5` (43_bc4_bc5). -/

namespace Sys2Proof.Machine

/-- The eight-value palette over 255: `V8(k)/255`, `V8(k) = ((8−k)·e0 + (k−1)·e1)/7` for k = 2..7 (R172, conflict C3). -/
def bc4Eight (e0 e1 k : Nat) : Frac :=
  match k with
  | 0 => ⟨e0, 255⟩
  | 1 => ⟨e1, 255⟩
  | _ => ⟨(8 - k) * e0 + (k - 1) * e1, 7 * 255⟩

/-- The six-value palette (R173). A code has three bits, so the last line is code 7. -/
def bc4Six (e0 e1 k : Nat) : Frac :=
  match k with
  | 0 => ⟨e0, 255⟩
  | 1 => ⟨e1, 255⟩
  | 2 => ⟨4 * e0 + 1 * e1, 5 * 255⟩
  | 3 => ⟨3 * e0 + 2 * e1, 5 * 255⟩
  | 4 => ⟨2 * e0 + 3 * e1, 5 * 255⟩
  | 5 => ⟨1 * e0 + 4 * e1, 5 * 255⟩
  | 6 => ⟨0, 1⟩
  | _ => ⟨1, 1⟩

/-- `bc4_plane(P, i)`: `e0 = P[7:0]`, `e1 = P[15:8]`, the code at bits `18+3i : 16+3i` (R170, R171, R174). -/
def bc4Plane (p i : Nat) : Frac :=
  let e0 := slice p 7 0
  let e1 := slice p 15 8
  let k := slice p (18 + 3 * i) (16 + 3 * i)
  if eightValue e0 e1 then bc4Eight e0 e1 k else bc4Six e0 e1 k

/-- The response of a BC4 block at pixel `i`: R only, "G, B, A are 0 for BC4" (R175, conflict C4). -/
def bc4Color (cfg : Config) (blk i : Nat) : Color :=
  ⟨toF32 cfg.toF32 (bc4Plane (slice blk 63 0) i), f32Zero, f32Zero, f32Zero⟩

/-- The response of a BC5 block at pixel `i`: first plane R, second plane G, "B and A are 0" (R176, R177). -/
def bc5Color (cfg : Config) (blk i : Nat) : Color :=
  ⟨toF32 cfg.toF32 (bc4Plane (slice blk 63 0) i), toF32 cfg.toF32 (bc4Plane (slice blk 127 64) i), f32Zero, f32Zero⟩

/-- `DEC.BC4 off, x, y` (R175). -/
def execDecBc4 (x y : Coord) (off : Nat) (s : State) : Host.Outcome State Fault Refusal :=
  withBlock off 8 (fun blk s => respond (bc4Color s.cfg blk (pixelIndex x y)) s) s

/-- `DEC.BC5 off, x, y` (R177). -/
def execDecBc5 (x y : Coord) (off : Nat) (s : State) : Host.Outcome State Fault Refusal :=
  withBlock off 16 (fun blk s => respond (bc5Color s.cfg blk (pixelIndex x y)) s) s

end Sys2Proof.Machine
end

