-- ==== Sys2Proof/Machine/Bc1Bc3.lean ====
section
/-! DEFINITION. `DEC.BC1` and `DEC.BC3` (42_bc1_bc3). -/

namespace Sys2Proof.Machine

/-- A palette entry: exact rationals R, G, B, A (R154, R155). -/
structure PalEntry where
  r : Frac
  g : Frac
  b : Frac
  a : Frac
deriving DecidableEq, Repr

/-- The entry `(k0·rgb(c0) + k1·rgb(c1)) / d`, channel by channel, with alpha 1: `rgb(c) = (c[15:11]/31, c[10:5]/63, c[4:0]/31)`
(R151), blended on the expanded values (D9). -/
def rgbBlend (k0 k1 d c0 c1 : Nat) : PalEntry where
  r := ⟨k0 * slice c0 15 11 + k1 * slice c1 15 11, d * 31⟩
  g := ⟨k0 * slice c0 10 5 + k1 * slice c1 10 5, d * 63⟩
  b := ⟨k0 * slice c0 4 0 + k1 * slice c1 4 0, d * 31⟩
  a := ⟨1, 1⟩

/-- The four-colour palette (R154). A code has two bits, so the last line is code 3. -/
def pal4 (c0 c1 code : Nat) : PalEntry :=
  match code with
  | 0 => rgbBlend 1 0 1 c0 c1
  | 1 => rgbBlend 0 1 1 c0 c1
  | 2 => rgbBlend 2 1 3 c0 c1
  | _ => rgbBlend 1 2 3 c0 c1

/-- The three-colour palette (R155). The last line is code 3, transparent black. -/
def pal3 (c0 c1 code : Nat) : PalEntry :=
  match code with
  | 0 => rgbBlend 1 0 1 c0 c1
  | 1 => rgbBlend 0 1 1 c0 c1
  | 2 => rgbBlend 1 1 2 c0 c1
  | _ => ⟨⟨0, 1⟩, ⟨0, 1⟩, ⟨0, 1⟩, ⟨0, 1⟩⟩

/-- The palette entry of pixel `i` of the BC1 block (or BC1 half) `p`: `c0 = p[15:0]`, `c1 = p[31:16]`, the code at bits
`33+2i : 32+2i`; four colours if `c0 > c1` or the caller always wants them (R150, R152, R153, R156). -/
def bc1Entry (alwaysFour : Bool) (p i : Nat) : PalEntry :=
  let c0 := slice p 15 0
  let c1 := slice p 31 16
  let code := slice p (33 + 2 * i) (32 + 2 * i)
  if alwaysFour || fourColour c0 c1 then pal4 c0 c1 code else pal3 c0 c1 code

/-- The response of a BC1 block at pixel `i` (R156). -/
def bc1Color (cfg : Config) (blk i : Nat) : Color :=
  let e := bc1Entry false blk i
  ⟨toF32 cfg.toF32 e.r, toF32 cfg.toF32 e.g, toF32 cfg.toF32 e.b, toF32 cfg.toF32 e.a⟩

/-- The response of a BC3 block at pixel `i`: colour from bytes 8 to 15 by `BC3_COLOR_MODE`, its BC1 alpha discarded, alpha from
the BC4 plane in bytes 0 to 7 (R158 to R161). -/
def bc3Color (cfg : Config) (blk i : Nat) : Color :=
  let e := bc1Entry (decide (cfg.bc3ColorMode = .alwaysFour)) (slice blk 127 64) i
  ⟨toF32 cfg.toF32 e.r, toF32 cfg.toF32 e.g, toF32 cfg.toF32 e.b, toF32 cfg.toF32 (bc4Plane (slice blk 63 0) i)⟩

/-- `DEC.BC1 off, x, y` (R156). -/
def execDecBc1 (x y : Coord) (off : Nat) (s : State) : Host.Outcome State Fault Refusal :=
  withBlock off 8 (fun blk s => respond (bc1Color s.cfg blk (pixelIndex x y)) s) s

/-- `DEC.BC3 off, x, y` (R161). -/
def execDecBc3 (x y : Coord) (off : Nat) (s : State) : Host.Outcome State Fault Refusal :=
  withBlock off 16 (fun blk s => respond (bc3Color s.cfg blk (pixelIndex x y)) s) s

end Sys2Proof.Machine
end

