-- ==== Sys2Proof/Machine/Bc6h.lean ====
section
/-! DEFINITION. BC6H (44_bc6h): the block-level instructions of its 14 modes and four reserved codes, and the requests
`DEC.BC6H.UF16` and `DEC.BC6H.SF16`, which fetch a block and run the block-level instruction it holds (log 1). -/

namespace Sys2Proof.Machine

/-- A base endpoint component, or a component of a mode that is not transformed: unsigned, or in SF16 sign-extended from the base
width (R219, R221). -/
def bc6hBase (sg : Signedness) (n v : Nat) : Int :=
  match sg with
  | .uf16 => v
  | .sf16 => sext n v

/-- A component of a transformed endpoint: the base plus the sign-extended delta of `dw` bits, masked to the base width, and in
SF16 sign-extended again (R220). -/
def bc6hDelta (sg : Signedness) (n dw : Nat) (base : Int) (f : Nat) : Int :=
  bc6hBase sg n ((base + sext dw f) % 2 ^ n).toNat

/-- A component of an endpoint other than `w` (R220, R221). -/
def bc6hOther (sg : Signedness) (d : Bc6hDesc) (dw : Nat) (base : Int) (f : Nat) : Int :=
  if d.t then bc6hDelta sg d.epb dw base f else bc6hBase sg d.epb f

/-- Endpoint 0 (R219). -/
def bc6hEndpoint0 (sg : Signedness) (d : Bc6hDesc) (w : Rgb Nat) : Rgb Int :=
  ⟨bc6hBase sg d.epb w.r, bc6hBase sg d.epb w.g, bc6hBase sg d.epb w.b⟩

/-- An endpoint k ≥ 1 from its stored field, always relative to the base `w` (R220, R221). -/
def bc6hEndpointK (sg : Signedness) (d : Bc6hDesc) (w f : Rgb Nat) : Rgb Int :=
  let e0 := bc6hEndpoint0 sg d w
  ⟨bc6hOther sg d d.dr e0.r f.r, bc6hOther sg d d.dg e0.g f.g, bc6hOther sg d d.db e0.b f.b⟩

/-- `unq_u(v, n)` (R222). -/
def unqU (v : Int) (n : Nat) : Int :=
  if v = 0 then 0
  else if v = 2 ^ n - 1 then 0xFFFF
  else asr (v * 2 ^ 15 + 0x4000) (n - 1)

/-- `m(a, n)` of R223. -/
def unqMag (a : Int) (n : Nat) : Int :=
  if a = 0 then 0
  else if 2 ^ (n - 1) - 1 ≤ a then 0x7FFF
  else asr (a * 2 ^ 15 + 0x4000) (n - 1)

/-- `unq_s(v, n)` (R223). -/
def unqS (bypass16 : Bool) (v : Int) (n : Nat) : Int :=
  if n = 16 ∧ bypass16 = true then v
  else if v < 0 then -unqMag (-v) n
  else unqMag v n

/-- Unquantizing an endpoint component (R222, R223). -/
def bc6hUnquantize (cfg : Config) (sg : Signedness) (n : Nat) (v : Int) : Int :=
  match sg with
  | .uf16 => unqU v n
  | .sf16 => unqS cfg.bc6hSf16Bypass16 v n

/-- Unsigned finish: `(v · 31) >> 6` (R227). -/
def finishU (v : Int) : Word16 := BitVec.ofInt 16 (asr (v * 31) 6)

/-- Signed finish (R228). -/
def finishS (negZero : Bool) (v : Int) : Word16 :=
  if v < 0 then
    let mag := asr (-v * 31) 5
    if mag = 0 ∧ negZero = false then 0x0000 else 0x8000 ||| BitVec.ofInt 16 mag
  else BitVec.ofInt 16 (asr (v * 31) 5)

/-- The finishing step (R227, R228). -/
def bc6hFinish (cfg : Config) (sg : Signedness) (v : Int) : Word16 :=
  match sg with
  | .uf16 => finishU v
  | .sf16 => finishS cfg.bc6hSf16NegZero v

/-- One channel: unquantize both endpoint components, interpolate, finish, widen (R222 to R229). -/
def bc6hChannel (cfg : Config) (sg : Signedness) (n : Nat) (lo hi : Int) (w : Nat) : F32 :=
  halfToFloat (bc6hFinish cfg sg (interpolate (bc6hUnquantize cfg sg n lo) (bc6hUnquantize cfg sg n hi) w))

/-- A pixel between its subset's endpoints, with the weight of its index; alpha is always 1 (R226, R229). -/
def bc6hPixel (cfg : Config) (sg : Signedness) (d : Bc6hDesc) (lo hi : Rgb Int) (idx : Nat) : Color :=
  let w := weight d.ib idx
  ⟨bc6hChannel cfg sg d.epb lo.r hi.r w, bc6hChannel cfg sg d.epb lo.g hi.g w, bc6hChannel cfg sg d.epb lo.b hi.b w, f32One⟩

/-- Pixel `i` of a two-subset block: endpoints (w, x) in subset 0, (y, z) in subset 1 (R224, R225). -/
def bc6hTwoColor (cfg : Config) (sg : Signedness) (d : Bc6hDesc) (f : Bc6hTwo) (i : Nat) : Color :=
  let idx := indexAt f.idx d.ib (anchorsOf d.ns f.p) i
  if subsetOf d.ns f.p i = 0 then bc6hPixel cfg sg d (bc6hEndpoint0 sg d f.w) (bc6hEndpointK sg d f.w f.x) idx
  else bc6hPixel cfg sg d (bc6hEndpointK sg d f.w f.y) (bc6hEndpointK sg d f.w f.z) idx

/-- Pixel `i` of a one-subset block (R224, R225). -/
def bc6hOneColor (cfg : Config) (sg : Signedness) (d : Bc6hDesc) (f : Bc6hOne) (i : Nat) : Color :=
  bc6hPixel cfg sg d (bc6hEndpoint0 sg d f.w) (bc6hEndpointK sg d f.w f.x) (indexAt f.idx d.ib (anchorsOf d.ns 0) i)

/-- The response of a reserved block: black, alpha 1, for every pixel and either signedness (R202, D26). -/
def bc6hReservedColor : Color := ⟨f32Zero, f32Zero, f32Zero, f32One⟩

/-- BC6H mode 1 (R205). -/
def execBc6hMode1 (sg : Signedness) (x y : Coord) (f : Bc6hTwo) (s : State) : Host.Outcome State Fault Refusal :=
  respond (bc6hTwoColor s.cfg sg (bc6hDesc .m1) f (pixelIndex x y)) s

/-- BC6H mode 2 (R206). -/
def execBc6hMode2 (sg : Signedness) (x y : Coord) (f : Bc6hTwo) (s : State) : Host.Outcome State Fault Refusal :=
  respond (bc6hTwoColor s.cfg sg (bc6hDesc .m2) f (pixelIndex x y)) s

/-- BC6H mode 3 (R207). -/
def execBc6hMode3 (sg : Signedness) (x y : Coord) (f : Bc6hTwo) (s : State) : Host.Outcome State Fault Refusal :=
  respond (bc6hTwoColor s.cfg sg (bc6hDesc .m3) f (pixelIndex x y)) s

/-- BC6H mode 4 (R208). -/
def execBc6hMode4 (sg : Signedness) (x y : Coord) (f : Bc6hTwo) (s : State) : Host.Outcome State Fault Refusal :=
  respond (bc6hTwoColor s.cfg sg (bc6hDesc .m4) f (pixelIndex x y)) s

/-- BC6H mode 5 (R209). -/
def execBc6hMode5 (sg : Signedness) (x y : Coord) (f : Bc6hTwo) (s : State) : Host.Outcome State Fault Refusal :=
  respond (bc6hTwoColor s.cfg sg (bc6hDesc .m5) f (pixelIndex x y)) s

/-- BC6H mode 6 (R210). -/
def execBc6hMode6 (sg : Signedness) (x y : Coord) (f : Bc6hTwo) (s : State) : Host.Outcome State Fault Refusal :=
  respond (bc6hTwoColor s.cfg sg (bc6hDesc .m6) f (pixelIndex x y)) s

/-- BC6H mode 7 (R211). -/
def execBc6hMode7 (sg : Signedness) (x y : Coord) (f : Bc6hTwo) (s : State) : Host.Outcome State Fault Refusal :=
  respond (bc6hTwoColor s.cfg sg (bc6hDesc .m7) f (pixelIndex x y)) s

/-- BC6H mode 8 (R212). -/
def execBc6hMode8 (sg : Signedness) (x y : Coord) (f : Bc6hTwo) (s : State) : Host.Outcome State Fault Refusal :=
  respond (bc6hTwoColor s.cfg sg (bc6hDesc .m8) f (pixelIndex x y)) s

/-- BC6H mode 9 (R213). -/
def execBc6hMode9 (sg : Signedness) (x y : Coord) (f : Bc6hTwo) (s : State) : Host.Outcome State Fault Refusal :=
  respond (bc6hTwoColor s.cfg sg (bc6hDesc .m9) f (pixelIndex x y)) s

/-- BC6H mode 10 (R214). -/
def execBc6hMode10 (sg : Signedness) (x y : Coord) (f : Bc6hTwo) (s : State) : Host.Outcome State Fault Refusal :=
  respond (bc6hTwoColor s.cfg sg (bc6hDesc .m10) f (pixelIndex x y)) s

/-- BC6H mode 11 (R215). -/
def execBc6hMode11 (sg : Signedness) (x y : Coord) (f : Bc6hOne) (s : State) : Host.Outcome State Fault Refusal :=
  respond (bc6hOneColor s.cfg sg (bc6hDesc .m11) f (pixelIndex x y)) s

/-- BC6H mode 12 (R216). -/
def execBc6hMode12 (sg : Signedness) (x y : Coord) (f : Bc6hOne) (s : State) : Host.Outcome State Fault Refusal :=
  respond (bc6hOneColor s.cfg sg (bc6hDesc .m12) f (pixelIndex x y)) s

/-- BC6H mode 13 (R217). -/
def execBc6hMode13 (sg : Signedness) (x y : Coord) (f : Bc6hOne) (s : State) : Host.Outcome State Fault Refusal :=
  respond (bc6hOneColor s.cfg sg (bc6hDesc .m13) f (pixelIndex x y)) s

/-- BC6H mode 14 (R218). -/
def execBc6hMode14 (sg : Signedness) (x y : Coord) (f : Bc6hOne) (s : State) : Host.Outcome State Fault Refusal :=
  respond (bc6hOneColor s.cfg sg (bc6hDesc .m14) f (pixelIndex x y)) s

/-- BC6H reserved code 0x13 (R202): no field, pixel or signedness is read. -/
def execBc6hReserved13 (_sg : Signedness) (_x _y : Coord) (_rest : Nat) (s : State) : Host.Outcome State Fault Refusal :=
  respond bc6hReservedColor s

/-- BC6H reserved code 0x17 (R202): no field, pixel or signedness is read. -/
def execBc6hReserved17 (_sg : Signedness) (_x _y : Coord) (_rest : Nat) (s : State) : Host.Outcome State Fault Refusal :=
  respond bc6hReservedColor s

/-- BC6H reserved code 0x1B (R202): no field, pixel or signedness is read. -/
def execBc6hReserved1B (_sg : Signedness) (_x _y : Coord) (_rest : Nat) (s : State) : Host.Outcome State Fault Refusal :=
  respond bc6hReservedColor s

/-- BC6H reserved code 0x1F (R202): no field, pixel or signedness is read. -/
def execBc6hReserved1F (_sg : Signedness) (_x _y : Coord) (_rest : Nat) (s : State) : Host.Outcome State Fault Refusal :=
  respond bc6hReservedColor s

/-- Run the block-level instruction of a fetched block: the one `decodeBc6h` gives (R200, R230). -/
def runBc6h (sg : Signedness) (x y : Coord) (blk : Nat) (s : State) : Host.Outcome State Fault Refusal :=
  match bc6hModeOf blk with
  | .m1 => execBc6hMode1 sg x y (Bc6hTwo.ofBlock bc6hLayout1 blk) s
  | .m2 => execBc6hMode2 sg x y (Bc6hTwo.ofBlock bc6hLayout2 blk) s
  | .m3 => execBc6hMode3 sg x y (Bc6hTwo.ofBlock bc6hLayout3 blk) s
  | .m4 => execBc6hMode4 sg x y (Bc6hTwo.ofBlock bc6hLayout4 blk) s
  | .m5 => execBc6hMode5 sg x y (Bc6hTwo.ofBlock bc6hLayout5 blk) s
  | .m6 => execBc6hMode6 sg x y (Bc6hTwo.ofBlock bc6hLayout6 blk) s
  | .m7 => execBc6hMode7 sg x y (Bc6hTwo.ofBlock bc6hLayout7 blk) s
  | .m8 => execBc6hMode8 sg x y (Bc6hTwo.ofBlock bc6hLayout8 blk) s
  | .m9 => execBc6hMode9 sg x y (Bc6hTwo.ofBlock bc6hLayout9 blk) s
  | .m10 => execBc6hMode10 sg x y (Bc6hTwo.ofBlock bc6hLayout10 blk) s
  | .m11 => execBc6hMode11 sg x y (Bc6hOne.ofBlock bc6hLayout11 blk) s
  | .m12 => execBc6hMode12 sg x y (Bc6hOne.ofBlock bc6hLayout12 blk) s
  | .m13 => execBc6hMode13 sg x y (Bc6hOne.ofBlock bc6hLayout13 blk) s
  | .m14 => execBc6hMode14 sg x y (Bc6hOne.ofBlock bc6hLayout14 blk) s
  | .r13 => execBc6hReserved13 sg x y (slice blk 127 5) s
  | .r17 => execBc6hReserved17 sg x y (slice blk 127 5) s
  | .r1B => execBc6hReserved1B sg x y (slice blk 127 5) s
  | .r1F => execBc6hReserved1F sg x y (slice blk 127 5) s

/-- `DEC.BC6H.UF16 off, x, y` (R230). -/
def execDecBc6hUf16 (x y : Coord) (off : Nat) (s : State) : Host.Outcome State Fault Refusal :=
  withBlock off 16 (runBc6h .uf16 x y) s

/-- `DEC.BC6H.SF16 off, x, y` (R231). -/
def execDecBc6hSf16 (x y : Coord) (off : Nat) (s : State) : Host.Outcome State Fault Refusal :=
  withBlock off 16 (runBc6h .sf16 x y) s

end Sys2Proof.Machine
end

