-- ==== Sys2Proof/Machine/Bc7.lean ====
section
/-! DEFINITION. BC7 (45_bc7): the block-level instructions of its 8 modes and the reserved block, and the request `DEC.BC7`, which
fetches a block and runs the block-level instruction it holds (log 1). -/

namespace Sys2Proof.Machine

/-- How many p-bits widen an endpoint field: one in the modes that have any (R273, R274). -/
def bc7PWidth (d : Bc7Desc) : Nat := d.epb + d.spb

/-- Endpoint `e` of a channel whose raw fields `vs` have `n` bits: widened by its own p-bit (R273) or by its subset's (R274), then
unquantized to 8 bits at the widened precision (R275). -/
def bc7Endpoint (d : Bc7Desc) (n : Nat) (vs pb : List Nat) (e : Nat) : Nat :=
  let v := vs.getD e 0
  let wide :=
    if d.epb = 1 then v * 2 + pb.getD e 0
    else if d.spb = 1 then v * 2 + pb.getD (e / 2) 0
    else v
  unq8 wide (n + bc7PWidth d)

/-- Endpoint `e` of the alpha channel: 255 in a mode without alpha endpoints (R281). -/
def bc7AlphaEndpoint (d : Bc7Desc) (f : Bc7Fields) (e : Nat) : Nat :=
  if d.ab = 0 then 255 else bc7Endpoint d d.ab f.a f.pb e

/-- `idx_1(i)` (R276, R277). -/
def bc7Index1 (d : Bc7Desc) (f : Bc7Fields) (i : Nat) : Nat := indexAt f.idx1 d.ib (anchorsOf d.ns f.p) i

/-- `idx_2(i)`: its only anchor is pixel 0 (R277). -/
def bc7Index2 (d : Bc7Desc) (f : Bc7Fields) (i : Nat) : Nat := indexAt f.idx2 d.ib2 [0] i

/-- The weight that drives R, G, B: array 1, or array 2 where mode 4's `isel` is 1 (R278). -/
def bc7ColorWeight (d : Bc7Desc) (f : Bc7Fields) (i : Nat) : Nat :=
  if d.isb = 1 ∧ f.isel = 1 then weight d.ib2 (bc7Index2 d f i) else weight d.ib (bc7Index1 d f i)

/-- The weight that drives A: array 2 in the modes that have one, but array 1 where mode 4's `isel` is 1 (R278). -/
def bc7AlphaWeight (d : Bc7Desc) (f : Bc7Fields) (i : Nat) : Nat :=
  if d.ib2 = 0 ∨ (d.isb = 1 ∧ f.isel = 1) then weight d.ib (bc7Index1 d f i) else weight d.ib2 (bc7Index2 d f i)

/-- The four channel values of a pixel, 0..255. -/
structure Rgba where
  r : Int
  g : Int
  b : Int
  a : Int
deriving DecidableEq, Repr

/-- Rotation, after interpolation (R280). A rotation field has two bits, and the last line is rotation 0, which is also that of
the modes without one. -/
def bc7Rotate (rot : Nat) (v : Rgba) : Rgba :=
  match rot with
  | 1 => ⟨v.a, v.g, v.b, v.r⟩
  | 2 => ⟨v.r, v.a, v.b, v.g⟩
  | 3 => ⟨v.r, v.g, v.a, v.b⟩
  | _ => v

/-- The values of pixel `i` between its subset's endpoints (R276, R279). -/
def bc7Values (d : Bc7Desc) (f : Bc7Fields) (i : Nat) : Rgba :=
  let s := subsetOf d.ns f.p i
  let cw := bc7ColorWeight d f i
  let aw := bc7AlphaWeight d f i
  let chan (vs : List Nat) : Int :=
    interpolate (bc7Endpoint d d.cb vs f.pb (2 * s)) (bc7Endpoint d d.cb vs f.pb (2 * s + 1)) cw
  ⟨chan f.r, chan f.g, chan f.b, interpolate (bc7AlphaEndpoint d f (2 * s)) (bc7AlphaEndpoint d f (2 * s + 1)) aw⟩

/-- `v/255`, rounded once (R282). -/
def bc7Out (cfg : Config) (v : Int) : F32 := toF32 cfg.toF32 ⟨v.toNat, 255⟩

/-- The response of a BC7 block at pixel `i` (R279 to R283). -/
def bc7Color (cfg : Config) (d : Bc7Desc) (f : Bc7Fields) (i : Nat) : Color :=
  let v := bc7Rotate f.rot (bc7Values d f i)
  ⟨bc7Out cfg v.r, bc7Out cfg v.g, bc7Out cfg v.b, bc7Out cfg v.a⟩

/-- The response of the reserved block: fully transparent black, for every pixel (R271). -/
def bc7ReservedColor : Color := ⟨f32Zero, f32Zero, f32Zero, f32Zero⟩

/-- BC7 mode 0 (R263). -/
def execBc7Mode0 (x y : Coord) (f : Bc7Fields) (s : State) : Host.Outcome State Fault Refusal :=
  respond (bc7Color s.cfg (bc7Desc .m0) f (pixelIndex x y)) s

/-- BC7 mode 1 (R264). -/
def execBc7Mode1 (x y : Coord) (f : Bc7Fields) (s : State) : Host.Outcome State Fault Refusal :=
  respond (bc7Color s.cfg (bc7Desc .m1) f (pixelIndex x y)) s

/-- BC7 mode 2 (R265). -/
def execBc7Mode2 (x y : Coord) (f : Bc7Fields) (s : State) : Host.Outcome State Fault Refusal :=
  respond (bc7Color s.cfg (bc7Desc .m2) f (pixelIndex x y)) s

/-- BC7 mode 3 (R266). -/
def execBc7Mode3 (x y : Coord) (f : Bc7Fields) (s : State) : Host.Outcome State Fault Refusal :=
  respond (bc7Color s.cfg (bc7Desc .m3) f (pixelIndex x y)) s

/-- BC7 mode 4 (R267). -/
def execBc7Mode4 (x y : Coord) (f : Bc7Fields) (s : State) : Host.Outcome State Fault Refusal :=
  respond (bc7Color s.cfg (bc7Desc .m4) f (pixelIndex x y)) s

/-- BC7 mode 5 (R268). -/
def execBc7Mode5 (x y : Coord) (f : Bc7Fields) (s : State) : Host.Outcome State Fault Refusal :=
  respond (bc7Color s.cfg (bc7Desc .m5) f (pixelIndex x y)) s

/-- BC7 mode 6 (R269). -/
def execBc7Mode6 (x y : Coord) (f : Bc7Fields) (s : State) : Host.Outcome State Fault Refusal :=
  respond (bc7Color s.cfg (bc7Desc .m6) f (pixelIndex x y)) s

/-- BC7 mode 7 (R270). -/
def execBc7Mode7 (x y : Coord) (f : Bc7Fields) (s : State) : Host.Outcome State Fault Refusal :=
  respond (bc7Color s.cfg (bc7Desc .m7) f (pixelIndex x y)) s

/-- The BC7 reserved block (R271): no other field is read. -/
def execBc7ReservedMode (_x _y : Coord) (_rest : Nat) (s : State) : Host.Outcome State Fault Refusal :=
  respond bc7ReservedColor s

/-- Run the block-level instruction of a fetched block: the one `decodeBc7` gives (R260, R283). -/
def runBc7 (x y : Coord) (blk : Nat) (s : State) : Host.Outcome State Fault Refusal :=
  match bc7ModeOf blk with
  | .m0 => execBc7Mode0 x y (Bc7Fields.ofBlock 0 (bc7Desc .m0) blk) s
  | .m1 => execBc7Mode1 x y (Bc7Fields.ofBlock 1 (bc7Desc .m1) blk) s
  | .m2 => execBc7Mode2 x y (Bc7Fields.ofBlock 2 (bc7Desc .m2) blk) s
  | .m3 => execBc7Mode3 x y (Bc7Fields.ofBlock 3 (bc7Desc .m3) blk) s
  | .m4 => execBc7Mode4 x y (Bc7Fields.ofBlock 4 (bc7Desc .m4) blk) s
  | .m5 => execBc7Mode5 x y (Bc7Fields.ofBlock 5 (bc7Desc .m5) blk) s
  | .m6 => execBc7Mode6 x y (Bc7Fields.ofBlock 6 (bc7Desc .m6) blk) s
  | .m7 => execBc7Mode7 x y (Bc7Fields.ofBlock 7 (bc7Desc .m7) blk) s
  | .reserved => execBc7ReservedMode x y (slice blk 127 8) s

/-- `DEC.BC7 off, x, y` (R283). -/
def execDecBc7 (x y : Coord) (off : Nat) (s : State) : Host.Outcome State Fault Refusal := withBlock off 16 (runBc7 x y) s

end Sys2Proof.Machine
end

