-- ==== Sys2Proof/Machine/Reserved.lean ====
section
/-! DEFINITION. The reserved op values of the command word (30_encoding R62, 60_exceptions R303, R306). The op is checked before
`rsv` and before any memory is touched, so neither matters. -/

namespace Sys2Proof.Machine

/-- Op 0x7 encodes no operation: `refuse(RESERVED_OP)` (R62). -/
def execReservedOp7 (_x _y : Coord) (_rsv : BitVec 8) (_off : Nat) (s : State) : Host.Outcome State Fault Refusal :=
  refuse .reservedOp s

/-- Ops 0x8 to 0xF encode no operation: `refuse(RESERVED_OP)` (R62). -/
def execReservedOp8toF (_low : BitVec 3) (_x _y : Coord) (_rsv : BitVec 8) (_off : Nat) (s : State) :
    Host.Outcome State Fault Refusal :=
  refuse .reservedOp s

end Sys2Proof.Machine
end

