-- ==== Sys2Proof/Machine/Dispatch.lean ====
section
/-! DEFINITION. One arm per instruction: a direct call of its meaning. -/

namespace Sys2Proof.Machine

def exec (i : Instr) (s : State) : Host.Outcome State Fault Refusal :=
  match i with
  | .decBc1 x y off => Sys2Proof.Machine.execDecBc1 x y off s
  | .decBc3 x y off => Sys2Proof.Machine.execDecBc3 x y off s
  | .decBc4 x y off => Sys2Proof.Machine.execDecBc4 x y off s
  | .decBc5 x y off => Sys2Proof.Machine.execDecBc5 x y off s
  | .decBc6hUf16 x y off => Sys2Proof.Machine.execDecBc6hUf16 x y off s
  | .decBc6hSf16 x y off => Sys2Proof.Machine.execDecBc6hSf16 x y off s
  | .decBc7 x y off => Sys2Proof.Machine.execDecBc7 x y off s
  | .reservedOp7 x y rsv off => Sys2Proof.Machine.execReservedOp7 x y rsv off s
  | .reservedOp8toF low x y rsv off => Sys2Proof.Machine.execReservedOp8toF low x y rsv off s
  | .bc6hMode1 sg x y f => Sys2Proof.Machine.execBc6hMode1 sg x y f s
  | .bc6hMode2 sg x y f => Sys2Proof.Machine.execBc6hMode2 sg x y f s
  | .bc6hMode3 sg x y f => Sys2Proof.Machine.execBc6hMode3 sg x y f s
  | .bc6hMode4 sg x y f => Sys2Proof.Machine.execBc6hMode4 sg x y f s
  | .bc6hMode5 sg x y f => Sys2Proof.Machine.execBc6hMode5 sg x y f s
  | .bc6hMode6 sg x y f => Sys2Proof.Machine.execBc6hMode6 sg x y f s
  | .bc6hMode7 sg x y f => Sys2Proof.Machine.execBc6hMode7 sg x y f s
  | .bc6hMode8 sg x y f => Sys2Proof.Machine.execBc6hMode8 sg x y f s
  | .bc6hMode9 sg x y f => Sys2Proof.Machine.execBc6hMode9 sg x y f s
  | .bc6hMode10 sg x y f => Sys2Proof.Machine.execBc6hMode10 sg x y f s
  | .bc6hMode11 sg x y f => Sys2Proof.Machine.execBc6hMode11 sg x y f s
  | .bc6hMode12 sg x y f => Sys2Proof.Machine.execBc6hMode12 sg x y f s
  | .bc6hMode13 sg x y f => Sys2Proof.Machine.execBc6hMode13 sg x y f s
  | .bc6hMode14 sg x y f => Sys2Proof.Machine.execBc6hMode14 sg x y f s
  | .bc6hReserved13 sg x y rest => Sys2Proof.Machine.execBc6hReserved13 sg x y rest s
  | .bc6hReserved17 sg x y rest => Sys2Proof.Machine.execBc6hReserved17 sg x y rest s
  | .bc6hReserved1B sg x y rest => Sys2Proof.Machine.execBc6hReserved1B sg x y rest s
  | .bc6hReserved1F sg x y rest => Sys2Proof.Machine.execBc6hReserved1F sg x y rest s
  | .bc7Mode0 x y f => Sys2Proof.Machine.execBc7Mode0 x y f s
  | .bc7Mode1 x y f => Sys2Proof.Machine.execBc7Mode1 x y f s
  | .bc7Mode2 x y f => Sys2Proof.Machine.execBc7Mode2 x y f s
  | .bc7Mode3 x y f => Sys2Proof.Machine.execBc7Mode3 x y f s
  | .bc7Mode4 x y f => Sys2Proof.Machine.execBc7Mode4 x y f s
  | .bc7Mode5 x y f => Sys2Proof.Machine.execBc7Mode5 x y f s
  | .bc7Mode6 x y f => Sys2Proof.Machine.execBc7Mode6 x y f s
  | .bc7Mode7 x y f => Sys2Proof.Machine.execBc7Mode7 x y f s
  | .bc7ReservedMode x y rest => Sys2Proof.Machine.execBc7ReservedMode x y rest s

end Sys2Proof.Machine
end

