-- ==== Sys2Proof/Machine/HostMoves.lean ====
section
/-! DEFINITION. What the host does to the array (70 R333, R340), the assembler form of a request (30_encoding R71) and the
whole-block pseudo-instruction (R72). -/

namespace Sys2Proof.Machine

/-- No unit has a request in flight. -/
def State.allIdle (s : State) : Bool := s.units.all (fun d => d.latch.isNone)

/-- Whether the host may make a move now (70 R340; log 12). It launches when no launch is open, a buffer whose every address has
`ADDR_W` bits (00_scope R8, 20_memory R40; log 19); issues to an idle unit of an open
launch a request whose `off` has `ADDR_W` bits; ends a launch when no request is in flight; reset it may assert at any time.
There is no move that writes the buffer (20_memory R50). -/
def State.mayMove (s : State) : HostMove → Bool
  | .launch bytes => s.launch.isNone && decide (bytes.length ≤ 2 ^ s.cfg.addrW)
  | .issue u q =>
    s.launch.isSome && decide (u < s.units.length) && (s.latchOf u).isNone && decide (q.off < 2 ^ s.cfg.addrW)
  | .reset => true
  | .endLaunch => s.launch.isSome && s.allIdle

/-- The move made. Reset drops the requests in flight, with no outcome, and leaves the buffer alone (70 R330, R331). -/
def State.makeMove (s : State) : HostMove → State
  | .launch bytes =>
    { s with launch := some bytes.length, mem := Memory.ofBytes 0 bytes, launchStart := s.outcomes.length }
  | .issue u q => { s with units := s.units.set u ⟨some q⟩ }
  | .reset => { s with units := s.units.map (fun _ => ⟨none⟩) }
  | .endLaunch => { s with launch := none, mem := [] }

/-- The host's turn: it makes its next move if it may, and waits if it may not or has none. -/
def State.hostTurn (s : State) (rest : List Agent) : State :=
  match s.host with
  | [] => { s with schedule := rest }
  | m :: ms =>
    if s.mayMove m then { (s.makeMove m) with host := ms, schedule := rest }
    else { s with schedule := rest }

/-- The formats an assembler line can name (30_encoding R71, R72). -/
inductive Format where
  | bc1
  | bc3
  | bc4
  | bc5
  | bc6hUf16
  | bc6hSf16
  | bc7
deriving DecidableEq, Repr

/-- The op value of a format (30_encoding R61). -/
def Format.op : Format → BitVec 4
  | .bc1 => 0x0
  | .bc3 => 0x1
  | .bc4 => 0x2
  | .bc5 => 0x3
  | .bc6hUf16 => 0x4
  | .bc6hSf16 => 0x5
  | .bc7 => 0x6

/-- The block size of a format (30_encoding R61). -/
def Format.size : Format → Nat
  | .bc1 => 8
  | .bc3 => 16
  | .bc4 => 8
  | .bc5 => 16
  | .bc6hUf16 => 16
  | .bc6hSf16 => 16
  | .bc7 => 16

/-- `MNEMONIC off, x, y`: `cmd = op | x<<4 | y<<6` (30_encoding R71). The host adapter refuses a coordinate outside 0..3 before a
request exists (R60, 70 R333 row 3). -/
def assemble (f : Format) (off x y : Nat) : Option Request :=
  if x < 4 ∧ y < 4 then some ⟨mkCmd f.op (BitVec.ofNat 2 x) (BitVec.ofNat 2 y) 0, off⟩ else none

/-- `DECBLK.<fmt> off`: the 16 requests in pixel-index order, y outer and x inner (30_encoding R72). -/
def decblk (f : Format) (off : Nat) : List Request :=
  (List.range 4).flatMap fun y => (List.range 4).map fun x =>
    ⟨mkCmd f.op (BitVec.ofNat 2 x) (BitVec.ofNat 2 y) 0, off⟩

end Sys2Proof.Machine
end

