-- ==== Sys2Proof/Machine/Step.lean ====
section
/-! DEFINITION. One step of the array and its host (70 R337: each request is one atomic step). -/

namespace Sys2Proof.Machine

/-- Serve a request: decode its command word, and run the instruction, or end the request in the refusal the decoder names
(60_exceptions R306). -/
def serve (q : Request) (s : State) : Host.Outcome State Fault Refusal :=
  match decodeRequest q with
  | .ok i => exec i s
  | .error .reservedField => refuse .reservedField s

/-- The agent whose turn it is moves: a busy unit serves its request, the host makes a move, an idle unit waits. -/
def step (s : State) : Host.Outcome State Fault Refusal :=
  match s.turn with
  | .serve _ q _ => serve q s
  | .host rest => .next (s.hostTurn rest)
  | .wait rest => .next { s with schedule := rest }

/-- `s` with the instruction of an opcode-table word as the one the next step runs (logs 2 and 3). -/
def State.withFetchWord (s : State) (nbits w : Nat) : State := s.loadCode (tableCode nbits w)

end Sys2Proof.Machine
end

