-- ==== Sys2Proof/Machine/Programs.lean ====
section
/-! DEFINITION. Programs (30_encoding R73): what the host does to run one, when it has ended and what its end state is
(70 R334, D23), and the result of the whole-block pseudo-instruction (30_encoding R72). The array itself has no program and no
"end of program" state: these read the outcomes in the host's hands. -/

namespace Sys2Proof.Machine

/-- A program: the requests the host issues, in order, against one launch buffer (30_encoding R73). -/
structure Program where
  bytes : List Byte
  reqs : List Request
deriving DecidableEq, Repr

/-- What the host does to run a program: the launch, request k issued to unit `units[k]` (on any units: 70 R338), and the end of the
launch, which waits for every outcome (70 R340). -/
def Program.moves (p : Program) (units : List Nat) : List HostMove :=
  .launch p.bytes :: (List.zipWith HostMove.issue units p.reqs ++ [.endLaunch])

/-- The outcomes delivered in the open launch (or the last one), oldest first. -/
def State.launchOutcomes (s : State) : List Delivered := s.outcomes.drop s.launchStart

/-- The first outcome tagged with the request, and the others ("Each is tagged with its request, so the host can match them",
70 R338). -/
def takeOutcome (q : Request) : List Delivered → Option (ReqOutcome × List Delivered)
  | [] => none
  | d :: rest =>
    if d.req = q then some (d.outcome, rest)
    else
      match takeOutcome q rest with
      | some (o, others) => some (o, d :: others)
      | none => none

/-- The outcomes in request order, each request with an outcome of its own; none while some request has not ended. -/
def outcomesInOrder : List Request → List Delivered → Option (List ReqOutcome)
  | [], _ => some []
  | q :: reqs, ds =>
    match takeOutcome q ds with
    | some (o, others) =>
      match outcomesInOrder reqs others with
      | some os => some (o :: os)
      | none => none
    | none => none

/-- The end state of a program with these requests: "the list of outcomes in request order" (70 R334). A request that reset dropped
has none until the host has issued it again (70 R331). -/
def State.endState (s : State) (reqs : List Request) : Option (List ReqOutcome) := outcomesInOrder reqs s.launchOutcomes

/-- A program has ended when every one of its requests has (70 R334). -/
def State.ended (s : State) (reqs : List Request) : Bool := (s.endState reqs).isSome

/-- The responses, if every outcome is one. -/
def responsesOf : List ReqOutcome → Option (List Color)
  | [] => some []
  | .response c :: os =>
    match responsesOf os with
    | some cs => some (c :: cs)
    | none => none
  | .fault _ :: _ => none
  | .refused _ :: _ => none

/-- The result of `DECBLK.<fmt> off`: its 16 responses in pixel-index order (30_encoding R72); none if one of the 16 requests has
not ended, or ended in the fault. -/
def State.decblkResult (s : State) (f : Format) (off : Nat) : Option (List Color) :=
  match s.endState (decblk f off) with
  | some os => responsesOf os
  | none => none

/-- An array of one unit that holds the request, in a launch of the buffer. -/
def loneUnit (cfg : Config) (bytes : List Byte) (q : Request) : State :=
  { State.reset with
    cfg := cfg
    units := [⟨some q⟩]
    launch := some bytes.length
    mem := Memory.ofBytes 0 bytes }

/-- "The same function of its request and the buffer" that is every request's outcome, whatever the schedule (10_state R27,
70 R338): what a lone unit answers. -/
def outcomeOf (cfg : Config) (bytes : List Byte) (q : Request) : Option ReqOutcome :=
  match step (loneUnit cfg bytes q) with
  | .next t => t.outcomes.head?.map (·.outcome)
  | .fault _ => none
  | .refused _ => none

end Sys2Proof.Machine
end

