-- ==== Sys2Proof/Safety.lean ====
section
/-! DEFINITION. What the statements call a good state and a safe outcome. -/

namespace Sys2Proof.Machine

/-- The latch of a unit holds only a request that fits it: `off` has `ADDR_W` bits (10_state R23). -/
def DecoderUnit.fits (addrW : Nat) (d : DecoderUnit) : Bool :=
  match d.latch with
  | none => true
  | some q => decide (q.off < 2 ^ addrW)

/-- The states the spec allows: at least one unit and one address bit (R8), every latched `off` within `ADDR_W` bits (R23), the
buffer no longer than `ADDR_W` bits can address (R8, R40; log 19) and in its canonical form within `BUF_LEN`, and with no launch no buffer
and no request in flight (70 R333 row 1, R340). The launch began no later than now (log 18). -/
def State.Inv (s : State) : Bool :=
  decide (s.units ≠ []) && decide (1 ≤ s.cfg.addrW) && s.units.all (DecoderUnit.fits s.cfg.addrW) &&
    decide (s.launchStart ≤ s.outcomes.length) &&
    match s.launch with
    | some len => decide (len ≤ 2 ^ s.cfg.addrW) && Memory.wf len s.mem
    | none => decide (s.mem = []) && s.allIdle

/-- The block sizes of the operations, by op (30_encoding R61); none for a reserved op. -/
def opSize (op : BitVec 4) : Option Nat :=
  match op.toNat with
  | 0x0 => some 8
  | 0x1 => some 16
  | 0x2 => some 8
  | 0x3 => some 16
  | 0x4 => some 16
  | 0x5 => some 16
  | 0x6 => some 16
  | _ => none

/-- `cmd = op | x<<4 | y<<6` (30_encoding R71): the command word of a request whose reserved field is 0. -/
def cmdOf (op : Nat) (x y : Coord) : Word16 := BitVec.ofNat 16 (op ||| x.toNat <<< 4 ||| y.toNat <<< 6)

/-- The host has kept its duties for a request against a buffer of `len` bytes (70 R333 rows 2 and 6): the op is one of the seven,
`rsv` is 0, and the block is wholly inside the buffer. -/
def dutiesKept (len : Nat) (q : Request) : Bool :=
  match opSize (cmdOp q.cmd) with
  | some size => decide (cmdRsv q.cmd = 0) && decide (q.off + size ≤ len)
  | none => false

/-- A safe outcome: a response. -/
def ReqOutcome.isResponse : ReqOutcome → Bool
  | .response _ => true
  | .fault _ => false
  | .refused _ => false

/-- The number of requests in flight. -/
def busyCount : List DecoderUnit → Nat
  | [] => 0
  | d :: rest => (if d.latch.isSome then 1 else 0) + busyCount rest

/-- The requests in flight, in the order of the units. -/
def inFlight : List DecoderUnit → List Request
  | [] => []
  | d :: rest =>
    match d.latch with
    | some q => q :: inFlight rest
    | none => inFlight rest

/-- The value of an exact rational. -/
def fracValue (q : Frac) : ℚ := (q.num : ℚ) / q.den

/-- The exponent field of a binary32 word; 255 is infinity or NaN (40_primitives R109). -/
def f32Exp (b : F32) : Nat := b.toNat / 2 ^ 23 % 2 ^ 8

/-- The value of a finite binary32 word (40_primitives R109): sign, exponent, fraction as IEEE 754 has them. -/
def f32Value (b : F32) : ℚ :=
  let f : Nat := b.toNat % 2 ^ 23
  let mag : ℚ :=
    if f32Exp b = 0 then f * (2 : ℚ) ^ (-149 : ℤ) else (2 ^ 23 + f) * (2 : ℚ) ^ ((f32Exp b : ℤ) - 150)
  if b.toNat / 2 ^ 31 = 1 then -mag else mag

end Sys2Proof.Machine
end

