-- ==== Sys2Proof/Certificates/Slice0/Obligations.lean ====
section
/-! DEFINITION. The statements for the provers. Each docstring names the rules of spec/ it formalises, and says where it rests on a
choice of the model (a log entry). -/

open Sys2Proof Sys2Proof.Machine

/-! ## The machine as a whole -/

/-- After reset every unit is idle, no outcome is pending and no request is in flight (10_state section 6). The last clause, that no
launch is open, is the model's own choice (log 8): the spec only says that the buffer is the host's and that reset does not change
it. So is that there is a unit to be idle: the model's reset has one (log 6). -/
def Obligations.ResetLeavesEveryUnitIdle : Prop :=
  State.reset.allIdle = true ∧ State.reset.units ≠ [] ∧ State.reset.outcomes = [] ∧ inFlight State.reset.units = [] ∧
    State.reset.launch = none

/-- The invariant of the model holds after reset. -/
def Obligations.ResetMeetsStateInvariant : Prop := State.reset.Inv = true

/-- Every step keeps the invariant: at least one unit and one address bit, latched offsets of `ADDR_W` bits, a launch buffer no longer
than `ADDR_W` bits can address, canonical and within `BUF_LEN`, no request in flight without a launch. (That the launch began no later
than now is about the model's own field `launchStart`, log 18; that the parameters stand in the state is log 9; the bound on the buffer is
log 19.) -/
def Obligations.EveryStepKeepsStateInvariant : Prop :=
  ∀ s t : State, s.Inv = true → step s = .next t → t.Inv = true

/-- The machine never stops (in every state, also one that no run reaches), and no step changes a parameter or the number of units,
or takes back an outcome it has delivered; one step delivers at most one outcome. Much of this is the model's own choice: where the
spec gives the host no move, the host waits (log 12), and an idle unit that has the turn waits (log 11); the parameters stand in the
state and stay (log 9); a fault and a refusal are next states (logs 4 and 5); `Fault.noRequest` is never reached (log 14). -/
def Obligations.EveryStepGoesOnAndKeepsParameters : Prop :=
  ∀ s : State, ∃ t, step s = .next t ∧ t.cfg = s.cfg ∧ t.units.length = s.units.length ∧
    ∃ new : List Delivered, t.outcomes = s.outcomes ++ new ∧ new.length ≤ 1

/-- R41: the hardware never writes the buffer, and a read has no effect on it. While a launch is open, a step either ends the launch
or leaves its length and every byte as they were; serving a request always leaves them. -/
def Obligations.NoStepWritesTheLaunchBuffer : Prop :=
  ∀ (s t : State) (len : Nat), s.launch = some len → step s = .next t →
    (t.launch = none ∨ (t.launch = some len ∧ ∀ a, t.readByte a = s.readByte a)) ∧
    ∀ u q rest, s.turn = .serve u q rest → t.launch = some len ∧ ∀ a, t.readByte a = s.readByte a

/-- R331: reset drops the requests in flight: no response, no fault, no refusal, and no effect but that every unit is idle. -/
def Obligations.ResetDropsRequestsInFlight : Prop :=
  ∀ (s : State) (rest : List Agent) (ms : List HostMove), s.turn = .host rest → s.host = .reset :: ms →
    ∃ t, step s = .next t ∧ t.allIdle = true ∧ t.units.length = s.units.length ∧ t.outcomes = s.outcomes ∧
      t.cfg = s.cfg ∧ t.launch = s.launch ∧ t.launchStart = s.launchStart ∧ (∀ a, t.readByte a = s.readByte a) ∧
      t.host = ms ∧ t.schedule = rest

/-- R8, R40, R333 row 1: the host hands a buffer over; the buffer then holds exactly its bytes, byte 0 first, and has no other
address. The host does it only when no launch is open, and never with a buffer longer than `ADDR_W` bits can address (log 12: it then
waits), so that every address has `ADDR_W` bits (log 19). The launch begins with the outcomes delivered so far (log 18). -/
def Obligations.LaunchHandsOverTheBytes : Prop :=
  ∀ (s : State) (rest : List Agent) (ms : List HostMove) (bytes : List Byte),
    s.turn = .host rest → s.host = .launch bytes :: ms →
    (s.launch = none → bytes.length ≤ 2 ^ s.cfg.addrW →
      ∃ t, step s = .next t ∧ t.launch = some bytes.length ∧ (∀ a, t.readByte a = bytes[a]?) ∧
        (∀ a, (t.readByte a).isSome = true → a < 2 ^ t.cfg.addrW) ∧
        t.units = s.units ∧ t.outcomes = s.outcomes ∧ t.launchStart = s.outcomes.length ∧ t.cfg = s.cfg ∧ t.host = ms) ∧
    (2 ^ s.cfg.addrW < bytes.length → step s = .next { s with schedule := rest }) ∧
    (∀ len, s.launch = some len → step s = .next { s with schedule := rest })

/-- R340: the host issues a request to an idle unit of an open launch, and takes the buffer back only when no request is in flight. The
spec gives it no other such move, and the model lets it wait instead (log 12, the model's own choice): to a busy unit, with no launch
open, to a unit that does not exist, or with an `off` that does not fit `ADDR_W` bits it issues nothing, and it ends no launch that is
not open. -/
def Obligations.HostIssuesAndEndsLaunches : Prop :=
  ∀ (s : State) (rest : List Agent) (ms : List HostMove), s.turn = .host rest →
    (∀ u q, s.host = .issue u q :: ms →
      (∀ len, s.launch = some len → u < s.units.length → s.latchOf u = none → q.off < 2 ^ s.cfg.addrW →
        ∃ t, step s = .next t ∧ t.latchOf u = some q ∧ (∀ v, v ≠ u → t.latchOf v = s.latchOf v) ∧
          t.units.length = s.units.length ∧ t.outcomes = s.outcomes ∧ t.launch = s.launch ∧ t.launchStart = s.launchStart ∧
          (∀ a, t.readByte a = s.readByte a) ∧ t.cfg = s.cfg ∧ t.host = ms) ∧
      (∀ q', s.latchOf u = some q' → step s = .next { s with schedule := rest }) ∧
      (s.launch = none → step s = .next { s with schedule := rest }) ∧
      (s.units.length ≤ u → step s = .next { s with schedule := rest }) ∧
      (2 ^ s.cfg.addrW ≤ q.off → step s = .next { s with schedule := rest })) ∧
    (s.host = .endLaunch :: ms →
      (∀ len, s.launch = some len → s.allIdle = true →
        ∃ t, step s = .next t ∧ t.launch = none ∧ (∀ a, t.readByte a = none) ∧ t.units = s.units ∧
          t.outcomes = s.outcomes ∧ t.launchStart = s.launchStart ∧ t.cfg = s.cfg ∧ t.host = ms) ∧
      (s.allIdle = false → step s = .next { s with schedule := rest }) ∧
      (s.launch = none → step s = .next { s with schedule := rest }))

/-- A program runs to its end (30_encoding section 4, 70_reset_and_hazards sections 2 and 3): the host launches the buffer, issues the
requests to units of its choice and ends the launch; whatever the schedule, every request has then ended, and the end state is
the list of the outcomes in request order, each the function `outcomeOf` of its request and the buffer. For the program of
`DECBLK.<fmt> off` with its block in bounds, the result is the 16 responses in pixel-index order. (How the end state is read from the
delivered outcomes, and the moves that stand for a program, are the model's own: log 18; who moves once the schedule is used up is
log 11.) -/
def Obligations.EndStateListsOutcomesInRequestOrder : Prop :=
  ∀ (s : State) (p : Program) (us : List Nat),
    s.launch = none → s.allIdle = true → s.host = p.moves us → us.length = p.reqs.length → (∀ u ∈ us, u < s.units.length) →
    p.bytes.length ≤ 2 ^ s.cfg.addrW → (∀ q ∈ p.reqs, q.off < 2 ^ s.cfg.addrW) →
    ∃ (t : State) (os : List ReqOutcome),
      Sys2Proof.core.run (s.schedule.length + 2 * p.reqs.length + 2) s = .next t ∧
      t.launch = none ∧ t.allIdle = true ∧ t.host = [] ∧ t.ended p.reqs = true ∧ t.endState p.reqs = some os ∧
      p.reqs.map (outcomeOf s.cfg p.bytes) = os.map some ∧
      ∀ (f : Format) (off : Nat), p.reqs = decblk f off → off + f.size ≤ p.bytes.length →
        ∃ cs, t.decblkResult f off = some cs ∧ cs.length = 16 ∧
          ∀ i c, cs[i]? = some c →
            ∃ q, assemble f off (i % 4) (i / 4) = some q ∧ outcomeOf s.cfg p.bytes q = some (.response c)

/-! ## Requests and their outcomes -/

/-- A unit's turn: the step decodes the request in its latch and runs the instruction, or ends the request in the refusal the decoder
names. The step adds nothing of its own around `exec`. -/
def Obligations.StepRunsTheDecodedRequest : Prop :=
  ∀ (s : State) (u : Nat) (q : Request) (rest : List Agent), s.turn = .serve u q rest →
    (∀ i, decodeRequest q = .ok i → step s = exec i s) ∧
    (decodeRequest q = .error .reservedField → step s = refuse .reservedField s)

/-- R302, R303, R304, R306: the checks in their order. An op of 0x7 to 0xF is refused whatever else the request holds; then a
reserved field that is not 0; then the block fetch faults if `off + S > BUF_LEN`, in the integers; else there is a response.
The codes are 1, 2 and 3 and no others. -/
def Obligations.OutcomesFollowTheirPriority : Prop :=
  (FaultKind.blockOutOfBounds.code = 1 ∧ RefuseKind.reservedOp.code = 2 ∧ RefuseKind.reservedField.code = 3 ∧
    (∀ k : FaultKind, k.code = 1) ∧ ∀ k : RefuseKind, k.code = 2 ∨ k.code = 3) ∧
  ∀ (s : State) (u : Nat) (q : Request) (rest : List Agent) (len : Nat),
    s.turn = .serve u q rest → s.launch = some len →
    (7 ≤ (cmdOp q.cmd).toNat → step s = .next (s.finish u q rest (.refused .reservedOp))) ∧
    ((cmdOp q.cmd).toNat < 7 → cmdRsv q.cmd ≠ 0 → step s = .next (s.finish u q rest (.refused .reservedField))) ∧
    (∀ size, opSize (cmdOp q.cmd) = some size → cmdRsv q.cmd = 0 → len < q.off + size →
      step s = .next (s.finish u q rest (.fault ⟨1, q.cmd, q.off, size⟩))) ∧
    (∀ size, opSize (cmdOp q.cmd) = some size → cmdRsv q.cmd = 0 → q.off + size ≤ len →
      ∃ c, step s = .next (s.finish u q rest (.response c)))

/-- R300: a request that is served ends in exactly one outcome, and that is a response just if the request is well-formed and its
block is in bounds: no content of the block, and nothing else in the state, matters. -/
def Obligations.ResponseExactlyWhenDutiesKept : Prop :=
  ∀ (s : State) (u : Nat) (q : Request) (rest : List Agent) (len : Nat),
    s.turn = .serve u q rest → s.launch = some len →
    ∃ o, step s = .next (s.finish u q rest o) ∧ o.isResponse = dutiesKept len q

/-- R302, R307: each of the seven `DEC.*` operations takes the fault at its block fetch when the block is not wholly inside the
buffer: the record `(code, cmd, off, S)` in place of a response, the unit then idle, and nothing else affected. -/
def Obligations.OutOfBoundsBlockTakesTheFault : Prop :=
  ∀ (s : State) (u : Nat) (q : Request) (rest : List Agent) (len : Nat) (x y : Coord) (off : Nat),
    s.turn = .serve u q rest → s.launch = some len →
    let takes (i : Instr) (size : Nat) : Prop :=
      ∃ t, exec i s = .next t ∧ t.outcomes = s.outcomes ++ [⟨q, .fault ⟨1, q.cmd, q.off, size⟩⟩] ∧
        t.latchOf u = none ∧ (∀ v, v ≠ u → t.latchOf v = s.latchOf v) ∧ t.launch = s.launch ∧
        t.launchStart = s.launchStart ∧ (∀ a, t.readByte a = s.readByte a) ∧ t.cfg = s.cfg ∧ t.host = s.host ∧ t.schedule = rest
    (len < off + 8 → takes (.decBc1 x y off) 8 ∧ takes (.decBc4 x y off) 8) ∧
    (len < off + 16 → takes (.decBc3 x y off) 16 ∧ takes (.decBc5 x y off) 16 ∧ takes (.decBc6hUf16 x y off) 16 ∧
      takes (.decBc6hSf16 x y off) 16 ∧ takes (.decBc7 x y off) 16)

/-- R62: an op of 0x7 to 0xF encodes no operation: the request ends in `refuse(RESERVED_OP)`, whatever the memory and the other
fields of the request hold, with no response. Every such op decodes to one of these two instructions. -/
def Obligations.ReservedOpsAreRefused : Prop :=
  (∀ (s : State) (u : Nat) (q : Request) (rest : List Agent) (x y : Coord) (rsv : BitVec 8) (low : BitVec 3) (off : Nat),
    s.turn = .serve u q rest →
    exec (.reservedOp7 x y rsv off) s = .next (s.finish u q rest (.refused .reservedOp)) ∧
    exec (.reservedOp8toF low x y rsv off) s = .next (s.finish u q rest (.refused .reservedOp))) ∧
  ∀ q : Request, 7 ≤ (cmdOp q.cmd).toNat →
    (∃ x y rsv off, decodeRequest q = .ok (.reservedOp7 x y rsv off)) ∨
    ∃ low x y rsv off, decodeRequest q = .ok (.reservedOp8toF low x y rsv off)

/-- The frame of every instruction, all 36 of them: if it answers a next state, one request has been served and ended in one
outcome; that unit is idle, and every parameter, every other unit, the launch, every byte of the buffer, the outcomes already
delivered and the host's coming moves are as before (R29, R307, R335). -/
def Obligations.EveryInstructionChangesOnlyItsRequest : Prop :=
  ∀ (i : Instr) (s t : State), exec i s = .next t →
    ∃ u q rest o, s.turn = .serve u q rest ∧ s.latchOf u = some q ∧ t.latchOf u = none ∧
      (∀ v, v ≠ u → t.latchOf v = s.latchOf v) ∧ t.units.length = s.units.length ∧
      t.outcomes = s.outcomes ++ [⟨q, o⟩] ∧ t.launchStart = s.launchStart ∧ t.cfg = s.cfg ∧ t.launch = s.launch ∧
      t.mem = s.mem ∧ (∀ a, t.readByte a = s.readByte a) ∧ t.host = s.host ∧ t.schedule = rest

/-- R27: an outcome is a function of the request fields and the buffer bytes `[off, off + S)` alone (and of the parameters, which
are fixed for the array): not of the unit, the other units, the schedule, the outcomes before it or any other byte. -/
def Obligations.OutcomeDependsOnRequestAndBlockAlone : Prop :=
  ∀ (s s' : State) (u u' : Nat) (q : Request) (rest rest' : List Agent),
    s.turn = .serve u q rest → s'.turn = .serve u' q rest' → s.cfg = s'.cfg →
    (∀ size a, opSize (cmdOp q.cmd) = some size → q.off ≤ a → a < q.off + size → s.readByte a = s'.readByte a) →
    ∃ o, step s = .next (s.finish u q rest o) ∧ step s' = .next (s'.finish u' q rest' o)

/-- The requests in flight are served in any order: two schedules that give the same units their turns end in the same state, but for
the order in which the outcomes, each tagged with its request, were delivered (70_reset_and_hazards section 3). That a list in the
state says who moves is the model's own choice (log 11). -/
def Obligations.OrderOfServiceDoesNotMatter : Prop :=
  ∀ (s : State) (l l' : List Nat) (rest : List Agent), l.Perm l' →
    ∃ t t' : State,
      Sys2Proof.core.run l.length { s with schedule := l.map Agent.unit ++ rest : State } = .next t ∧
      Sys2Proof.core.run l'.length { s with schedule := l'.map Agent.unit ++ rest : State } = .next t' ∧
      t'.units = t.units ∧ t'.cfg = t.cfg ∧ t'.launch = t.launch ∧ t'.launchStart = t.launchStart ∧ t'.mem = t.mem ∧
      t'.host = t.host ∧ t'.schedule = t.schedule ∧ t.outcomes.Perm t'.outcomes

/-- Every request in flight ends, in a bounded number of steps and in exactly one outcome, whatever the schedule and however the
units are busy (70_reset_and_hazards section 3). That the first busy unit moves once the schedule is used up is the model's own
choice for weak fairness (log 11); the host makes no further move here. -/
def Obligations.EveryRequestInFlightEnds : Prop :=
  ∀ s : State, s.host = [] →
    ∃ (t : State) (new : List Delivered),
      Sys2Proof.core.run (s.schedule.length + busyCount s.units) s = .next t ∧ t.allIdle = true ∧
      t.outcomes = s.outcomes ++ new ∧ (new.map (·.req)).Perm (inFlight s.units)

/-! ## Encoding -/

/-- R60, R64: the four fields of `cmd` are its bits, every bit belongs to one of them, and `mkCmd` lays them out so. -/
def Obligations.CommandWordIsItsFields : Prop :=
  (∀ c : Word16, c.toNat = (cmdOp c).toNat + 2 ^ 4 * (cmdX c).toNat + 2 ^ 6 * (cmdY c).toNat + 2 ^ 8 * (cmdRsv c).toNat) ∧
  ∀ (op : BitVec 4) (x y : Coord) (rsv : BitVec 8),
    cmdOp (mkCmd op x y rsv) = op ∧ cmdX (mkCmd op x y rsv) = x ∧ cmdY (mkCmd op x y rsv) = y ∧
      cmdRsv (mkCmd op x y rsv) = rsv

/-- R61: `op` alone selects the operation; match is the op value and mask is `0x000F`. The block sizes are those of the table. -/
def Obligations.OpSelectsTheOperation : Prop :=
  (∀ c : Word16, (cmdOp c).toNat = c.toNat &&& 0x000F) ∧
  (∀ (x y : Coord) (off : Nat),
    decodeRequest ⟨cmdOf 0x0 x y, off⟩ = .ok (.decBc1 x y off) ∧
    decodeRequest ⟨cmdOf 0x1 x y, off⟩ = .ok (.decBc3 x y off) ∧
    decodeRequest ⟨cmdOf 0x2 x y, off⟩ = .ok (.decBc4 x y off) ∧
    decodeRequest ⟨cmdOf 0x3 x y, off⟩ = .ok (.decBc5 x y off) ∧
    decodeRequest ⟨cmdOf 0x4 x y, off⟩ = .ok (.decBc6hUf16 x y off) ∧
    decodeRequest ⟨cmdOf 0x5 x y, off⟩ = .ok (.decBc6hSf16 x y off) ∧
    decodeRequest ⟨cmdOf 0x6 x y, off⟩ = .ok (.decBc7 x y off)) ∧
  opSize 0x0 = some 8 ∧ opSize 0x1 = some 16 ∧ opSize 0x2 = some 8 ∧ opSize 0x3 = some 16 ∧ opSize 0x4 = some 16 ∧
    opSize 0x5 = some 16 ∧ opSize 0x6 = some 16 ∧ ∀ op : BitVec 4, 7 ≤ op.toNat → opSize op = none

/-- R71: the assembler line `MNEMONIC off, x, y` is `cmd = op | x<<4 | y<<6` with `off`; a coordinate outside 0..3 gives no request
(R60, R333 row 3). R72: the expansion of `DECBLK.<fmt> off` is the 16 requests in pixel-index order, y outer and x inner (its result is
in EndStateListsOutcomesInRequestOrder). -/
def Obligations.AssemblerLinesBecomeRequests : Prop :=
  (∀ (f : Format) (off x y : Nat), x < 4 → y < 4 →
    assemble f off x y = some ⟨BitVec.ofNat 16 (f.op.toNat ||| x <<< 4 ||| y <<< 6), off⟩) ∧
  (∀ (f : Format) (off x y : Nat), ¬ (x < 4 ∧ y < 4) → assemble f off x y = none) ∧
  assemble .bc1 0x10 2 3 = some ⟨0x00E0, 0x10⟩ ∧
  ∀ (f : Format) (off : Nat), (decblk f off).length = 16 ∧
    ∀ i, i < 16 → (decblk f off)[i]? = assemble f off (i % 4) (i / 4)

/-- A few words written out from the encodings of the spec decode to the instructions they stand for (R61, R71, R200, R260). -/
def Obligations.WordsDecodeAsTheSpecSays : Prop :=
  decodeRequest ⟨0x00E0, 0x10⟩ = .ok (.decBc1 2 3 0x10) ∧
  decodeRequest ⟨0x0015, 0⟩ = .ok (.decBc6hSf16 1 0 0) ∧
  decodeRequest ⟨0x0106, 0⟩ = .error .reservedField ∧
  decodeRequest ⟨0x0107, 0⟩ = .ok (.reservedOp7 0 0 1 0) ∧
  decodeRequest ⟨0x000B, 0⟩ = .ok (.reservedOp8toF 3 0 0 0 0) ∧
  decodeBc6h .uf16 0 0 0x000000000000000000000007FFFFFFE3 =
    .bc6hMode11 .uf16 0 0 ⟨⟨1023, 1023, 1023⟩, ⟨0, 0, 0⟩, 0⟩ ∧
  decodeBc7 1 0 0xF00000000000008B3264C993264C9940 =
    .bc7Mode6 1 0 ⟨0, 0, 0, [50, 50], [50, 50], [50, 50], [50, 50], [0, 1], 0x7800000000000045, 0⟩ ∧
  decodeBc7 0 0 0 = .bc7ReservedMode 0 0 0

/-- DECODE OF ENCODE: every well-formed instruction, at both levels, at every value of every operand, is read back from its code. -/
def Obligations.DecodeOfEncode : Prop :=
  ∀ (addrW : Nat) (i : Instr), i.wellFormed addrW = true → decodeCode (encode i) = .ok i

/-- ENCODE OF DECODE: a code that decodes is the code of what it decodes to, bit for bit: no bit of a request or of a block is
dropped or read twice. (The command word beside a block counts only with its reserved field 0, as in every request that
decodes a block.) And what is decoded is well-formed. -/
def Obligations.EncodeOfDecode : Prop :=
  ∀ (addrW : Nat) (c : Code) (i : Instr), c.fits addrW = true → decodeCode c = .ok i →
    i.wellFormed addrW = true ∧
    ((∀ cmd blk, c = .block cmd blk → cmdRsv cmd = 0) → encode i = c)

/-- The state `withFetchWord` gives runs exactly the instruction that the decoder reads from the table word (logs 2 and 3: which
level a table word belongs to, and where the next step finds it, is the model's own choice). -/
def Obligations.FetchWordRunsTheTableInstruction : Prop :=
  ∀ (s : State) (nbits w : Nat) (i : Instr), s.Inv = true → w < 2 ^ 128 → decodeTableWord nbits w = some i →
    step (s.withFetchWord nbits w) = exec i (s.withFetchWord nbits w)

/-- The BC6H and BC7 requests respond, and their response is the one the block-level instruction of the fetched block gives (log 1;
R230, R231, R283). -/
def Obligations.RequestsRunTheirBlockInstruction : Prop :=
  ∀ (s : State) (u : Nat) (q : Request) (rest : List Agent) (x y : Coord) (off blk : Nat),
    s.turn = .serve u q rest → s.memRead off 16 = some blk →
    let both (i j : Instr) : Prop :=
      ∃ c, exec i s = .next (s.finish u q rest (.response c)) ∧ exec j s = .next (s.finish u q rest (.response c))
    both (.decBc6hUf16 x y off) (decodeBc6h .uf16 x y blk) ∧
    both (.decBc6hSf16 x y off) (decodeBc6h .sf16 x y blk) ∧
    both (.decBc7 x y off) (decodeBc7 x y blk)

/-! ## Memory -/

/-- R42: `MemRead` is the little-endian sum of the bytes; if any byte is outside the buffer the request faults, whatever would have
followed. -/
def Obligations.MemReadIsLittleEndian : Prop :=
  ∀ (s : State) (len addr n : Nat), s.launch = some len →
    ((∀ k, k < n → addr + k < len) →
      s.memRead addr n = some ((List.range n).map (fun k => (Memory.read s.mem (addr + k)).toNat * 2 ^ (8 * k))).sum) ∧
    ((∃ k, k < n ∧ len ≤ addr + k) →
      s.memRead addr n = none ∧ ∀ k, withBlock addr n k s = takeFault .blockOutOfBounds n s)

/-- R11: bit p of a block is bit `p & 7` of its byte `p >> 3`, and `BLK[hi:lo]` is the field at the bits lo to hi, bit lo the least
significant. -/
def Obligations.BlockBitsAreByteBits : Prop :=
  (∀ (s : State) (off size blk p : Nat), s.memRead off size = some blk → p < 8 * size →
    ∃ b, s.readByte (off + (p >>> 3)) = some b ∧ blk.testBit p = b.toNat.testBit (p &&& 7)) ∧
  ∀ v hi lo k : Nat, lo ≤ hi → (slice v hi lo).testBit k = (decide (lo + k ≤ hi) && v.testBit (lo + k))

/-- R44: the cursor reads the next `n` bits of the block, least significant first, and moves past them; `read(0)` is 0. The bits are
those of the bytes of the buffer. -/
def Obligations.CursorReadsTheNextBits : Prop :=
  ∀ (s : State) (off size n k : Nat) (c : Cursor), s.memRead off size = some c.blk → c.pos + n ≤ 8 * size →
    (c.read 0).1 = 0 ∧ (c.read n).2 = ⟨c.blk, c.pos + n⟩ ∧ (c.read n).1 < 2 ^ n ∧
    (1 ≤ n → (c.read n).1 = slice c.blk (c.pos + n - 1) c.pos) ∧
    (k < n → ∃ b, s.readByte (off + ((c.pos + k) >>> 3)) = some b ∧
      (c.read n).1.testBit k = b.toNat.testBit ((c.pos + k) &&& 7))

/-! ## Shared primitives -/

/-- R12, R100: `interpolate` rounds by a bias of 32 and a floor shift of 6; weight 0 gives `e0`, weight 64 gives `e1`, equal endpoints
give themselves. With a weight in 0..64 the result lies between the endpoints: that sentence R100 itself marks as derived "from the
formula, since it is a convex combination rounded to the nearest integer". -/
def Obligations.InterpolateStaysBetweenEndpoints : Prop :=
  ∀ (e0 e1 : Int) (w : Nat), w ≤ 64 →
    interpolate e0 e1 w = ⌊((e0 * (64 - w) + e1 * w + 32 : Int) : ℚ) / 64⌋ ∧
    interpolate e0 e1 0 = e0 ∧ interpolate e0 e1 64 = e1 ∧ interpolate e0 e0 w = e0 ∧
    min e0 e1 ≤ interpolate e0 e1 w ∧ interpolate e0 e1 w ≤ max e0 e1 ∧ interpolate 100 101 21 = 100

/-- R101: `unq8` copies the top bits of the value into the low bits of the byte; from 8 bits on it is the identity. The form
`(v << (8−n)) | (v >> (2n−8))` for n in 5..8, and that 0 gives 0 and `2^n − 1` gives 255 there, are sentences R101 itself marks as
derived. -/
def Obligations.Unq8ReplicatesTheTopBits : Prop :=
  (∀ v n : Nat, 8 ≤ n → unq8 v n = v) ∧
  (∀ v n : Nat, n < 8 → unq8 v n = v <<< (8 - n) ||| (v <<< (8 - n)) >>> n) ∧
  (∀ v n : Nat, 5 ≤ n → n ≤ 8 → v < 2 ^ n → unq8 v n = v <<< (8 - n) ||| v >>> (2 * n - 8) ∧ unq8 v n ≤ 255) ∧
  (∀ n : Nat, 5 ≤ n → n ≤ 8 → unq8 0 n = 0 ∧ unq8 (2 ^ n - 1) n = 255) ∧
  unq8 31 5 = 255 ∧ unq8 16 5 = 132

/-- R102: `sext` gives the one integer of the n-bit two's-complement range that agrees with the value in its n low bits. -/
def Obligations.SextReadsTwosComplement : Prop :=
  (∀ n v : Nat, 1 ≤ n →
    -(2 : Int) ^ (n - 1) ≤ sext n v ∧ sext n v < 2 ^ (n - 1) ∧ sext n v % 2 ^ n = (v : Int) % 2 ^ n ∧
    sext n v = if v.testBit (n - 1) then ((v % 2 ^ n : Nat) : Int) - 2 ^ n else ((v % 2 ^ n : Nat) : Int)) ∧
  sext 5 0x1F = -1 ∧ sext 5 0x0F = 15 ∧ sext 16 0x8000 = -32768

/-- R103: `half_to_float` by the cases of the binary16 exponent: the sign is kept, every finite value is kept exactly (a subnormal half
becomes a normal binary32), infinities stay infinities, and a NaN keeps its fraction. -/
def Obligations.HalfToFloatIsExact : Prop :=
  (∀ h : Word16,
    let s : Nat := h.toNat / 2 ^ 15
    let e : Nat := h.toNat / 2 ^ 10 % 2 ^ 5
    let f : Nat := h.toNat % 2 ^ 10
    let b := halfToFloat h
    b.toNat / 2 ^ 31 = s ∧
    (e = 0 → f = 0 → b.toNat = s * 2 ^ 31) ∧
    (e = 0 → f ≠ 0 → f32Exp b ≠ 0 ∧ f32Exp b ≠ 255 ∧ f32Value b = (-1) ^ s * f * (2 : ℚ) ^ (-24 : ℤ)) ∧
    (1 ≤ e → e ≤ 30 → f32Exp b ≠ 255 ∧ f32Value b = (-1) ^ s * (1 + (f : ℚ) / 1024) * (2 : ℚ) ^ ((e : ℤ) - 15)) ∧
    (e = 31 → b.toNat = s * 2 ^ 31 + 0x7F800000 + f * 2 ^ 13)) ∧
  halfToFloat 0x7BFF = 0x477FE000 ∧ halfToFloat 0x3C00 = 0x3F800000 ∧ f32Value (halfToFloat 0x0001) = (2 : ℚ) ^ (-24 : ℤ)

/-- R104: the default `rne32` rounds an exact value in [0, 1] to the nearest binary32, ties to even; 0 and 1 are exact. -/
def Obligations.DefaultToF32RoundsToNearestEven : Prop :=
  Config.default.toF32 = .rne32 ∧ toF32 .rne32 ⟨0, 1⟩ = 0x00000000 ∧ toF32 .rne32 ⟨1, 1⟩ = 0x3F800000 ∧
  ∀ q : Frac, 0 < q.den → q.num ≤ q.den →
    (toF32 .rne32 q).toNat ≤ 0x3F800000 ∧
    ∀ c : F32, c.toNat < 0x7F800000 → c ≠ toF32 .rne32 q →
      |f32Value (toF32 .rne32 q) - fracValue q| ≤ |f32Value c - fracValue q| ∧
      (|f32Value (toF32 .rne32 q) - fracValue q| = |f32Value c - fracValue q| → (toF32 .rne32 q).toNat % 2 = 0)

/-- R105: P1 exact, P2 monotone, P3 faithful, P4 quotient, for either setting of `toF32` and whatever the free value
`Config.roundCut` is. So equal values give equal words, however they are written. The setting `anyFaithful` with its free value is the
model's own choice (log 10), and P4 is log 10's reading of R105, the model's too: R105 speaks of `a/b` "at codes the source fixes as a
single division (BC4/BC5 codes 0 and 1, BC7 channels)", and those divisions are all by 255, so P4 is stated for every fraction,
however it is written, whose value is k/255. -/
def Obligations.ToF32HasItsFourProperties : Prop :=
  ∀ (m : ToF32) (q q' : Frac), 0 < q.den → q.num ≤ q.den → 0 < q'.den → q'.num ≤ q'.den →
    (∀ b : F32, b.toNat ≤ 0x3F800000 → f32Value b = fracValue q → toF32 m q = b) ∧
    (fracValue q ≤ fracValue q' → (toF32 m q).toNat ≤ (toF32 m q').toNat ∧
      f32Value (toF32 m q) ≤ f32Value (toF32 m q')) ∧
    ((toF32 m q).toNat ≤ 0x3F800000 ∧ ∀ c : F32, c.toNat ≤ 0x3F800000 →
      ¬ (f32Value (toF32 m q) < f32Value c ∧ f32Value c ≤ fracValue q) ∧
      ¬ (fracValue q ≤ f32Value c ∧ f32Value c < f32Value (toF32 m q))) ∧
    ∀ k : Nat, fracValue q = fracValue ⟨k, 255⟩ → toF32 m q = toF32 .rne32 q ∧ toF32 m q = toF32 .rne32 ⟨k, 255⟩

/-- R130, R132 to R136: the three weight tables, the two partition tables and the three anchor columns as the spec lists them, row by row
(a partition row is the number whose hexadecimal digits are the row's 16 digits, pixel 0 first), and their properties (41_tables
section 3, derived there): pixel 0 in subset 0, each anchor in the subset it anchors, the anchors distinct, no empty subset, no row
twice. Most of the contents the spec marks as general knowledge (log 16). -/
def Obligations.ConstantTablesHaveTheirProperties : Prop :=
  let row (subset : Nat → Nat) : Nat := ((List.range 16).map subset).foldl (fun digits d => 16 * digits + d) 0
  (List.range 4).map (weight 2) = [0, 21, 43, 64] ∧
  (List.range 8).map (weight 3) = [0, 9, 18, 27, 37, 46, 55, 64] ∧
  (List.range 16).map (weight 4) = [0, 4, 9, 13, 17, 21, 26, 30, 34, 38, 43, 47, 51, 55, 60, 64] ∧
  (List.range 64).map (fun p => row (partition2 p)) =
    [0x0011001100110011, 0x0001000100010001, 0x0111011101110111, 0x0001001100110111,
     0x0000000100010011, 0x0011011101111111, 0x0001001101111111, 0x0000000100110111,
     0x0000000000010011, 0x0011011111111111, 0x0000000101111111, 0x0000000000010111,
     0x0001011111111111, 0x0000000011111111, 0x0000111111111111, 0x0000000000001111,
     0x0000100011101111, 0x0111000100000000, 0x0000000010001110, 0x0111001100010000,
     0x0011000100000000, 0x0000100011001110, 0x0000000010001100, 0x0111001100110001,
     0x0011000100010000, 0x0000100010001100, 0x0110011001100110, 0x0011011001101100,
     0x0001011111101000, 0x0000111111110000, 0x0111000110001110, 0x0011100110011100] ++
    [0x0101010101010101, 0x0000111100001111, 0x0101101001011010, 0x0011001111001100,
     0x0011110000111100, 0x0101010110101010, 0x0110100101101001, 0x0101101010100101,
     0x0111001111001110, 0x0001001111001000, 0x0011001001001100, 0x0011101111011100,
     0x0110100110010110, 0x0011110011000011, 0x0110011010011001, 0x0000011001100000,
     0x0100111001000000, 0x0010011100100000, 0x0000001001110010, 0x0000010011100100,
     0x0110110010010011, 0x0011011011001001, 0x0110001110011100, 0x0011100111000110,
     0x0110110011001001, 0x0110001100111001, 0x0111111010000001, 0x0001100011100111,
     0x0000111100110011, 0x0011001111110000, 0x0010001011101110, 0x0100010001110111] ∧
  (List.range 64).map anchor2 =
    [15, 15, 15, 15, 15, 15, 15, 15, 15, 15, 15, 15, 15, 15, 15, 15,
     15, 2, 8, 2, 2, 8, 8, 15, 2, 8, 2, 2, 8, 8, 2, 2] ++
    [15, 15, 6, 8, 2, 8, 15, 15, 2, 8, 2, 2, 2, 15, 15, 6,
     6, 2, 6, 8, 15, 15, 2, 2, 15, 15, 15, 15, 15, 2, 2, 15] ∧
  (List.range 64).map (fun p => row (partition3 p)) =
    [0x0011001102212222, 0x0001001122112221, 0x0000200122112211, 0x0222002200110111,
     0x0000000011221122, 0x0011001100220022, 0x0022002211111111, 0x0011001122112211,
     0x0000000011112222, 0x0000111111112222, 0x0000111122222222, 0x0012001200120012,
     0x0112011201120112, 0x0122012201220122, 0x0011011211221222, 0x0011200122002220,
     0x0001001101121122, 0x0111001120012200, 0x0000112211221122, 0x0022002200221111,
     0x0111011102220222, 0x0001000122212221, 0x0000001101220122, 0x0000110022102210,
     0x0122012200110000, 0x0012001211222222, 0x0110122112210110, 0x0000011012211221,
     0x0022110211020022, 0x0110011020022222, 0x0011012201220011, 0x0000200022112221] ++
    [0x0000000211221222, 0x0222002200120011, 0x0011001200220222, 0x0120012001200120,
     0x0000111122220000, 0x0120120120120120, 0x0120201212010120, 0x0011220011220011,
     0x0011112222000011, 0x0101010122222222, 0x0000000021212121, 0x0022112200221122,
     0x0022001100220011, 0x0220122102201221, 0x0101222222220101, 0x0000212121212121,
     0x0101010101012222, 0x0222011102220111, 0x0002111200021112, 0x0000211221122112,
     0x0222011101110222, 0x0002111211120002, 0x0110011001102222, 0x0000000021122112,
     0x0110011022222222, 0x0022001100110022, 0x0022112211220022, 0x0000000000002112,
     0x0002000100020001, 0x0222122202221222, 0x0101222222222222, 0x0111201122012220] ∧
  (List.range 64).map anchor31 =
    [3, 3, 15, 15, 8, 3, 15, 15, 8, 8, 6, 6, 6, 5, 3, 3,
     3, 3, 8, 15, 3, 3, 6, 10, 5, 8, 8, 6, 8, 5, 15, 15] ++
    [8, 15, 3, 5, 6, 10, 8, 15, 15, 3, 15, 5, 15, 15, 15, 15,
     3, 15, 5, 5, 5, 8, 5, 10, 5, 10, 8, 13, 15, 12, 3, 3] ∧
  (List.range 64).map anchor32 =
    [15, 8, 8, 3, 15, 15, 3, 8, 15, 15, 15, 15, 15, 15, 15, 8,
     15, 8, 15, 3, 15, 8, 15, 8, 3, 15, 6, 10, 15, 15, 10, 8] ++
    [15, 3, 15, 10, 10, 8, 9, 10, 6, 15, 8, 15, 3, 6, 6, 8,
     15, 3, 15, 15, 15, 15, 15, 15, 15, 15, 15, 15, 3, 15, 15, 8] ∧
  (∀ p : Nat, p < 64 →
    partition2 p 0 = 0 ∧ partition3 p 0 = 0 ∧
    partition2 p (anchor2 p) = 1 ∧ partition3 p (anchor31 p) = 1 ∧ partition3 p (anchor32 p) = 2 ∧
    0 < anchor2 p ∧ anchor2 p < 16 ∧ 0 < anchor31 p ∧ anchor31 p < 16 ∧ 0 < anchor32 p ∧ anchor32 p < 16 ∧
    anchor31 p ≠ anchor32 p ∧ ∀ i : Nat, i < 16 → partition2 p i ≤ 1 ∧ partition3 p i ≤ 2) ∧
  ∀ p p' : Nat, p < 64 → p' < 64 → p ≠ p' →
    (∃ i, i < 16 ∧ partition2 p i ≠ partition2 p' i) ∧ ∃ i, i < 16 ∧ partition3 p i ≠ partition3 p' i

/-- How an index is cut from the block (44_bc6h section 5, 45_bc7 section 4): for one, two or three subsets, an array of width `b` that
fills the block bits `start` to `hi` gives pixel i the bits `pos(i)` to `pos(i) + len(i) − 1`, an anchor one bit fewer; the
positions end exactly at `hi`. -/
def Obligations.IndicesAreCutAtTheirPositions : Prop :=
  ∀ blk ns p b start hi i : Nat, 1 ≤ ns → ns ≤ 3 → p < 64 → 2 ≤ b → b ≤ 4 → hi + 1 = start + (16 * b - ns) → i < 16 →
    let anc := if ns = 1 then [0] else if ns = 2 then [0, anchor2 p] else [0, anchor31 p, anchor32 p]
    let len (j : Nat) : Nat := b - if j ∈ anc then 1 else 0
    let pos (j : Nat) : Nat := start + ((List.range j).map len).sum
    anchorsOf ns p = anc ∧
    indexAt (slice blk hi start) b (anchorsOf ns p) i = slice blk (pos i + len i - 1) (pos i) ∧
    indexAt (slice blk hi start) b (anchorsOf ns p) i < 2 ^ len i ∧ pos 15 + len 15 = hi + 1

/-! ## BC1 and BC3 -/

/-- R151, R154, R155: the palettes as exact values, from the expanded colours `c[15:11]/31`, `c[10:5]/63`, `c[4:0]/31`. -/
def Obligations.Bc1PalettesAreExact : Prop :=
  ∀ c0 c1 : Nat,
    let rgb (c : Nat) : Rgb ℚ := ⟨slice c 15 11 / 31, slice c 10 5 / 63, slice c 4 0 / 31⟩
    let mix (f : ℚ → ℚ → ℚ) : Rgb ℚ :=
      ⟨f (rgb c0).r (rgb c1).r, f (rgb c0).g (rgb c1).g, f (rgb c0).b (rgb c1).b⟩
    let is (e : PalEntry) (c : Rgb ℚ) (a : ℚ) : Prop :=
      fracValue e.r = c.r ∧ fracValue e.g = c.g ∧ fracValue e.b = c.b ∧ fracValue e.a = a
    is (pal4 c0 c1 0) (rgb c0) 1 ∧ is (pal4 c0 c1 1) (rgb c1) 1 ∧
    is (pal4 c0 c1 2) (mix fun a b => (2 * a + b) / 3) 1 ∧ is (pal4 c0 c1 3) (mix fun a b => (a + 2 * b) / 3) 1 ∧
    is (pal3 c0 c1 0) (rgb c0) 1 ∧ is (pal3 c0 c1 1) (rgb c1) 1 ∧
    is (pal3 c0 c1 2) (mix fun a b => (a + b) / 2) 1 ∧ is (pal3 c0 c1 3) ⟨0, 0, 0⟩ 0

/-- R150, R152, R153, R156: `DEC.BC1` responds with the palette entry of the pixel's code, each channel rounded once; the code is in
the byte of its row, least significant pair first; four colours just if `c0 > c1` as 16-bit integers. It faults when
`off + 8 > BUF_LEN`. -/
def Obligations.DecBc1Responds : Prop :=
  (∀ (x y : Coord) (off : Nat), decodeRequest ⟨cmdOf 0x0 x y, off⟩ = .ok (.decBc1 x y off)) ∧
  ∀ (s : State) (u : Nat) (q : Request) (rest : List Agent) (x y : Coord) (off : Nat), s.turn = .serve u q rest →
    (∀ blk, s.memRead off 8 = some blk →
      let row := slice blk (39 + 8 * y.toNat) (32 + 8 * y.toNat)
      let code := slice row (2 * x.toNat + 1) (2 * x.toNat)
      let e := if slice blk 15 0 > slice blk 31 16 then pal4 (slice blk 15 0) (slice blk 31 16) code
        else pal3 (slice blk 15 0) (slice blk 31 16) code
      code = slice blk (33 + 2 * (4 * y.toNat + x.toNat)) (32 + 2 * (4 * y.toNat + x.toNat)) ∧
      exec (.decBc1 x y off) s = .next (s.finish u q rest (.response
        ⟨toF32 s.cfg.toF32 e.r, toF32 s.cfg.toF32 e.g, toF32 s.cfg.toF32 e.b, toF32 s.cfg.toF32 e.a⟩))) ∧
    ∀ len, s.launch = some len → off + 8 > len →
      exec (.decBc1 x y off) s = .next (s.finish u q rest (.fault ⟨1, q.cmd, q.off, 8⟩))

/-- The corner cases of BC1 (42_bc1_bc3 section 3, derived there), for every parameter setting: equal endpoints choose three colours,
`c0 > c1` gives alpha 1 at every pixel, `c0 ≤ c1` with code 3 gives the all-zero words, alpha is 0 or 1 and nothing else. -/
def Obligations.Bc1CornerCases : Prop :=
  ∀ (cfg : Config) (blk i : Nat), i < 16 →
    let c0 := slice blk 15 0
    let c1 := slice blk 31 16
    let code := slice blk (33 + 2 * i) (32 + 2 * i)
    let out := bc1Color cfg blk i
    (c1 < c0 → out.a = f32One) ∧
    (c0 ≤ c1 → code = 3 → out = ⟨0x00000000, 0x00000000, 0x00000000, 0x00000000⟩) ∧
    (c0 = c1 → code ≠ 3 → fracValue (bc1Entry false blk i).r = (slice c0 15 11 : ℚ) / 31 ∧
      fracValue (bc1Entry false blk i).g = (slice c0 10 5 : ℚ) / 63 ∧
      fracValue (bc1Entry false blk i).b = (slice c0 4 0 : ℚ) / 31 ∧ out.a = f32One) ∧
    (out.a = f32Zero ∨ out.a = f32One)

/-- R158 to R161: `DEC.BC3` takes alpha from the BC4 plane in bytes 0 to 7 and colour from bytes 8 to 15, by `BC3_COLOR_MODE`, the BC1
alpha discarded. It faults when `off + 16 > BUF_LEN`. -/
def Obligations.DecBc3Responds : Prop :=
  (∀ (x y : Coord) (off : Nat), decodeRequest ⟨cmdOf 0x1 x y, off⟩ = .ok (.decBc3 x y off)) ∧
  ∀ (s : State) (u : Nat) (q : Request) (rest : List Agent) (x y : Coord) (off : Nat), s.turn = .serve u q rest →
    (∀ blk, s.memRead off 16 = some blk →
      let i := 4 * y.toNat + x.toNat
      let c0 := slice blk 79 64
      let c1 := slice blk 95 80
      let code := slice blk (97 + 2 * i) (96 + 2 * i)
      let e := if s.cfg.bc3ColorMode = .alwaysFour ∨ c0 > c1 then pal4 c0 c1 code else pal3 c0 c1 code
      exec (.decBc3 x y off) s = .next (s.finish u q rest (.response
        ⟨toF32 s.cfg.toF32 e.r, toF32 s.cfg.toF32 e.g, toF32 s.cfg.toF32 e.b,
          toF32 s.cfg.toF32 (bc4Plane (slice blk 63 0) i)⟩))) ∧
    ∀ len, s.launch = some len → off + 16 > len →
      exec (.decBc3 x y off) s = .next (s.finish u q rest (.fault ⟨1, q.cmd, q.off, 16⟩))

/-! ## BC4 and BC5 -/

/-- R170 to R173: the plane's value as an exact rational, by the two palettes. -/
def Obligations.Bc4PlaneFollowsItsPalette : Prop :=
  ∀ plane i : Nat, i < 16 →
    let e0 : ℚ := slice plane 7 0
    let e1 : ℚ := slice plane 15 8
    let v := fracValue (bc4Plane plane i)
    let code := slice plane (18 + 3 * i) (16 + 3 * i)
    (slice plane 7 0 > slice plane 15 8 →
      (code = 0 → v = e0 / 255) ∧ (code = 1 → v = e1 / 255) ∧ (code = 2 → v = (6 * e0 + 1 * e1) / 7 / 255) ∧
      (code = 3 → v = (5 * e0 + 2 * e1) / 7 / 255) ∧ (code = 4 → v = (4 * e0 + 3 * e1) / 7 / 255) ∧
      (code = 5 → v = (3 * e0 + 4 * e1) / 7 / 255) ∧ (code = 6 → v = (2 * e0 + 5 * e1) / 7 / 255) ∧
      (code = 7 → v = (1 * e0 + 6 * e1) / 7 / 255)) ∧
    (slice plane 7 0 ≤ slice plane 15 8 →
      (code = 0 → v = e0 / 255) ∧ (code = 1 → v = e1 / 255) ∧ (code = 2 → v = (4 * e0 + 1 * e1) / (5 * 255)) ∧
      (code = 3 → v = (3 * e0 + 2 * e1) / (5 * 255)) ∧ (code = 4 → v = (2 * e0 + 3 * e1) / (5 * 255)) ∧
      (code = 5 → v = (1 * e0 + 4 * e1) / (5 * 255)) ∧ (code = 6 → v = 0) ∧ (code = 7 → v = 1))

/-- The corner cases of the BC4 plane (43_bc4_bc5 section 2, derived there): in [0, 1]; the eight values fall strictly from `e0` to
`e1` in the order 0, 2, 3, 4, 5, 6, 7, 1; the six rise strictly in the order 0, 2, 3, 4, 5, 1 if `e0 < e1` and are all
`e0/255` if `e0 = e1`. -/
def Obligations.Bc4PlaneCornerCases : Prop :=
  (∀ plane i : Nat, 0 ≤ fracValue (bc4Plane plane i) ∧ fracValue (bc4Plane plane i) ≤ 1) ∧
  ∀ e0 e1 : Nat,
    (e1 < e0 → ([0, 2, 3, 4, 5, 6, 7, 1].map fun k => fracValue (bc4Eight e0 e1 k)).Pairwise (· > ·)) ∧
    (e0 < e1 → ([0, 2, 3, 4, 5, 1].map fun k => fracValue (bc4Six e0 e1 k)).Pairwise (· < ·)) ∧
    (∀ k, k < 6 → fracValue (bc4Six e0 e0 k) = (e0 : ℚ) / 255) ∧
    fracValue (bc4Six e0 e1 6) = 0 ∧ fracValue (bc4Six e0 e1 7) = 1

/-- R175, R177: `DEC.BC4` responds with the plane in R and zeros in G, B and A; `DEC.BC5` with its two planes in R and G and zeros in
B and A, each plane with its own palette mode. They fault when the block is not inside the buffer. -/
def Obligations.DecBc4AndDecBc5Respond : Prop :=
  (∀ (x y : Coord) (off : Nat), decodeRequest ⟨cmdOf 0x2 x y, off⟩ = .ok (.decBc4 x y off) ∧
    decodeRequest ⟨cmdOf 0x3 x y, off⟩ = .ok (.decBc5 x y off)) ∧
  ∀ (s : State) (u : Nat) (q : Request) (rest : List Agent) (x y : Coord) (off : Nat), s.turn = .serve u q rest →
    (∀ blk, s.memRead off 8 = some blk →
      exec (.decBc4 x y off) s = .next (s.finish u q rest (.response
        ⟨toF32 s.cfg.toF32 (bc4Plane (slice blk 63 0) (4 * y.toNat + x.toNat)), 0x00000000, 0x00000000, 0x00000000⟩))) ∧
    (∀ blk, s.memRead off 16 = some blk →
      exec (.decBc5 x y off) s = .next (s.finish u q rest (.response
        ⟨toF32 s.cfg.toF32 (bc4Plane (slice blk 63 0) (4 * y.toNat + x.toNat)),
          toF32 s.cfg.toF32 (bc4Plane (slice blk 127 64) (4 * y.toNat + x.toNat)), 0x00000000, 0x00000000⟩))) ∧
    ∀ len, s.launch = some len →
      (off + 8 > len → exec (.decBc4 x y off) s = .next (s.finish u q rest (.fault ⟨1, q.cmd, q.off, 8⟩))) ∧
      (off + 16 > len → exec (.decBc5 x y off) s = .next (s.finish u q rest (.fault ⟨1, q.cmd, q.off, 16⟩)))

/-- The LDR outputs lie in [0, 1] (40_primitives section 3): every response to a BC1, BC3, BC4, BC5 or BC7 request, whatever the
block, the pixel and the parameters. -/
def Obligations.LdrOutputsLieInTheUnitInterval : Prop :=
  ∀ (s : State) (u : Nat) (q : Request) (rest : List Agent) (c : Color),
    s.turn = .serve u q rest → cmdOp q.cmd ≠ 0x4 → cmdOp q.cmd ≠ 0x5 →
    step s = .next (s.finish u q rest (.response c)) →
    ∀ w ∈ [c.r, c.g, c.b, c.a], w.toNat ≤ 0x3F800000 ∧ 0 ≤ f32Value w ∧ f32Value w ≤ 1

/-! ## BC6H -/

/-- R66, R200: the mode of a BC6H block from its 2-bit field, or else its 5-bit one; every block selects exactly one row. -/
def Obligations.Bc6hModeFieldSelectsTheMode : Prop :=
  ∀ blk : Nat,
    let m2 := slice blk 1 0
    let m5 := slice blk 4 0
    (m2 = 0b00 ↔ bc6hModeOf blk = .m1) ∧ (m2 = 0b01 ↔ bc6hModeOf blk = .m2) ∧
    (m5 = 0x02 ↔ bc6hModeOf blk = .m3) ∧ (m5 = 0x06 ↔ bc6hModeOf blk = .m4) ∧
    (m5 = 0x0A ↔ bc6hModeOf blk = .m5) ∧ (m5 = 0x0E ↔ bc6hModeOf blk = .m6) ∧
    (m5 = 0x12 ↔ bc6hModeOf blk = .m7) ∧ (m5 = 0x16 ↔ bc6hModeOf blk = .m8) ∧
    (m5 = 0x1A ↔ bc6hModeOf blk = .m9) ∧ (m5 = 0x1E ↔ bc6hModeOf blk = .m10) ∧
    (m5 = 0x03 ↔ bc6hModeOf blk = .m11) ∧ (m5 = 0x07 ↔ bc6hModeOf blk = .m12) ∧
    (m5 = 0x0B ↔ bc6hModeOf blk = .m13) ∧ (m5 = 0x0F ↔ bc6hModeOf blk = .m14) ∧
    (m5 = 0x13 ↔ bc6hModeOf blk = .r13) ∧ (m5 = 0x17 ↔ bc6hModeOf blk = .r17) ∧
    (m5 = 0x1B ↔ bc6hModeOf blk = .r1B) ∧ (m5 = 0x1F ↔ bc6hModeOf blk = .r1F)

/-- R205 to R214: the fields of a two-subset BC6H block, bit for bit (the spec marks the tables as general knowledge; log 16). -/
def Obligations.Bc6hTwoSubsetLayouts : Prop :=
  ∀ (sg : Signedness) (x y : Coord) (blk : Nat),
  (bc6hModeOf blk = .m1 → decodeBc6h sg x y blk = .bc6hMode1 sg x y
    ⟨⟨slice blk 14 5, slice blk 24 15, slice blk 34 25⟩,
     ⟨slice blk 39 35, slice blk 49 45, slice blk 59 55⟩,
     ⟨slice blk 69 65, slice blk 44 41 + 2 ^ 4 * slice blk 2 2, slice blk 64 61 + 2 ^ 4 * slice blk 3 3⟩,
     ⟨slice blk 75 71, slice blk 54 51 + 2 ^ 4 * slice blk 40 40, slice blk 50 50 + 2 ^ 1 * slice blk 60 60 + 2 ^ 2 * slice blk 70 70 + 2 ^ 3 * slice blk 76 76 + 2 ^ 4 * slice blk 4 4⟩,
     slice blk 81 77, slice blk 127 82⟩) ∧
  (bc6hModeOf blk = .m2 → decodeBc6h sg x y blk = .bc6hMode2 sg x y
    ⟨⟨slice blk 11 5, slice blk 21 15, slice blk 31 25⟩,
     ⟨slice blk 40 35, slice blk 50 45, slice blk 60 55⟩,
     ⟨slice blk 70 65, slice blk 44 41 + 2 ^ 4 * slice blk 24 24 + 2 ^ 5 * slice blk 2 2, slice blk 64 61 + 2 ^ 4 * slice blk 14 14 + 2 ^ 5 * slice blk 22 22⟩,
     ⟨slice blk 76 71, slice blk 54 51 + 2 ^ 4 * slice blk 4 3, slice blk 13 12 + 2 ^ 2 * slice blk 23 23 + 2 ^ 3 * slice blk 32 32 + 2 ^ 4 * slice blk 34 34 + 2 ^ 5 * slice blk 33 33⟩,
     slice blk 81 77, slice blk 127 82⟩) ∧
  (bc6hModeOf blk = .m3 → decodeBc6h sg x y blk = .bc6hMode3 sg x y
    ⟨⟨slice blk 14 5 + 2 ^ 10 * slice blk 40 40, slice blk 24 15 + 2 ^ 10 * slice blk 49 49, slice blk 34 25 + 2 ^ 10 * slice blk 59 59⟩,
     ⟨slice blk 39 35, slice blk 48 45, slice blk 58 55⟩,
     ⟨slice blk 69 65, slice blk 44 41, slice blk 64 61⟩,
     ⟨slice blk 75 71, slice blk 54 51, slice blk 50 50 + 2 ^ 1 * slice blk 60 60 + 2 ^ 2 * slice blk 70 70 + 2 ^ 3 * slice blk 76 76⟩,
     slice blk 81 77, slice blk 127 82⟩) ∧
  (bc6hModeOf blk = .m4 → decodeBc6h sg x y blk = .bc6hMode4 sg x y
    ⟨⟨slice blk 14 5 + 2 ^ 10 * slice blk 39 39, slice blk 24 15 + 2 ^ 10 * slice blk 50 50, slice blk 34 25 + 2 ^ 10 * slice blk 59 59⟩,
     ⟨slice blk 38 35, slice blk 49 45, slice blk 58 55⟩,
     ⟨slice blk 68 65, slice blk 44 41 + 2 ^ 4 * slice blk 75 75, slice blk 64 61⟩,
     ⟨slice blk 74 71, slice blk 54 51 + 2 ^ 4 * slice blk 40 40, slice blk 69 69 + 2 ^ 1 * slice blk 60 60 + 2 ^ 2 * slice blk 70 70 + 2 ^ 3 * slice blk 76 76⟩,
     slice blk 81 77, slice blk 127 82⟩) ∧
  (bc6hModeOf blk = .m5 → decodeBc6h sg x y blk = .bc6hMode5 sg x y
    ⟨⟨slice blk 14 5 + 2 ^ 10 * slice blk 39 39, slice blk 24 15 + 2 ^ 10 * slice blk 49 49, slice blk 34 25 + 2 ^ 10 * slice blk 60 60⟩,
     ⟨slice blk 38 35, slice blk 48 45, slice blk 59 55⟩,
     ⟨slice blk 68 65, slice blk 44 41, slice blk 64 61 + 2 ^ 4 * slice blk 40 40⟩,
     ⟨slice blk 74 71, slice blk 54 51, slice blk 50 50 + 2 ^ 1 * slice blk 70 69 + 2 ^ 3 * slice blk 76 76 + 2 ^ 4 * slice blk 75 75⟩,
     slice blk 81 77, slice blk 127 82⟩) ∧
  (bc6hModeOf blk = .m6 → decodeBc6h sg x y blk = .bc6hMode6 sg x y
    ⟨⟨slice blk 13 5, slice blk 23 15, slice blk 33 25⟩,
     ⟨slice blk 39 35, slice blk 49 45, slice blk 59 55⟩,
     ⟨slice blk 69 65, slice blk 44 41 + 2 ^ 4 * slice blk 24 24, slice blk 64 61 + 2 ^ 4 * slice blk 14 14⟩,
     ⟨slice blk 75 71, slice blk 54 51 + 2 ^ 4 * slice blk 40 40, slice blk 50 50 + 2 ^ 1 * slice blk 60 60 + 2 ^ 2 * slice blk 70 70 + 2 ^ 3 * slice blk 76 76 + 2 ^ 4 * slice blk 34 34⟩,
     slice blk 81 77, slice blk 127 82⟩) ∧
  (bc6hModeOf blk = .m7 → decodeBc6h sg x y blk = .bc6hMode7 sg x y
    ⟨⟨slice blk 12 5, slice blk 22 15, slice blk 32 25⟩,
     ⟨slice blk 40 35, slice blk 49 45, slice blk 59 55⟩,
     ⟨slice blk 70 65, slice blk 44 41 + 2 ^ 4 * slice blk 24 24, slice blk 64 61 + 2 ^ 4 * slice blk 14 14⟩,
     ⟨slice blk 76 71, slice blk 54 51 + 2 ^ 4 * slice blk 13 13, slice blk 50 50 + 2 ^ 1 * slice blk 60 60 + 2 ^ 2 * slice blk 23 23 + 2 ^ 3 * slice blk 34 33⟩,
     slice blk 81 77, slice blk 127 82⟩) ∧
  (bc6hModeOf blk = .m8 → decodeBc6h sg x y blk = .bc6hMode8 sg x y
    ⟨⟨slice blk 12 5, slice blk 22 15, slice blk 32 25⟩,
     ⟨slice blk 39 35, slice blk 50 45, slice blk 59 55⟩,
     ⟨slice blk 69 65, slice blk 44 41 + 2 ^ 4 * slice blk 24 24 + 2 ^ 5 * slice blk 23 23, slice blk 64 61 + 2 ^ 4 * slice blk 14 14⟩,
     ⟨slice blk 75 71, slice blk 54 51 + 2 ^ 4 * slice blk 40 40 + 2 ^ 5 * slice blk 33 33, slice blk 13 13 + 2 ^ 1 * slice blk 60 60 + 2 ^ 2 * slice blk 70 70 + 2 ^ 3 * slice blk 76 76 + 2 ^ 4 * slice blk 34 34⟩,
     slice blk 81 77, slice blk 127 82⟩) ∧
  (bc6hModeOf blk = .m9 → decodeBc6h sg x y blk = .bc6hMode9 sg x y
    ⟨⟨slice blk 12 5, slice blk 22 15, slice blk 32 25⟩,
     ⟨slice blk 39 35, slice blk 49 45, slice blk 60 55⟩,
     ⟨slice blk 69 65, slice blk 44 41 + 2 ^ 4 * slice blk 24 24, slice blk 64 61 + 2 ^ 4 * slice blk 14 14 + 2 ^ 5 * slice blk 23 23⟩,
     ⟨slice blk 75 71, slice blk 54 51 + 2 ^ 4 * slice blk 40 40, slice blk 50 50 + 2 ^ 1 * slice blk 13 13 + 2 ^ 2 * slice blk 70 70 + 2 ^ 3 * slice blk 76 76 + 2 ^ 4 * slice blk 34 34 + 2 ^ 5 * slice blk 33 33⟩,
     slice blk 81 77, slice blk 127 82⟩) ∧
  (bc6hModeOf blk = .m10 → decodeBc6h sg x y blk = .bc6hMode10 sg x y
    ⟨⟨slice blk 10 5, slice blk 20 15, slice blk 30 25⟩,
     ⟨slice blk 40 35, slice blk 50 45, slice blk 60 55⟩,
     ⟨slice blk 70 65, slice blk 44 41 + 2 ^ 4 * slice blk 24 24 + 2 ^ 5 * slice blk 21 21, slice blk 64 61 + 2 ^ 4 * slice blk 14 14 + 2 ^ 5 * slice blk 22 22⟩,
     ⟨slice blk 76 71, slice blk 54 51 + 2 ^ 4 * slice blk 11 11 + 2 ^ 5 * slice blk 31 31, slice blk 13 12 + 2 ^ 2 * slice blk 23 23 + 2 ^ 3 * slice blk 32 32 + 2 ^ 4 * slice blk 34 34 + 2 ^ 5 * slice blk 33 33⟩,
     slice blk 81 77, slice blk 127 82⟩)

/-- R215 to R218: the fields of a one-subset BC6H block, bit for bit, the reversed high bits of modes 13 and 14 among them (the spec
marks the tables as general knowledge; log 16). -/
def Obligations.Bc6hOneSubsetLayouts : Prop :=
  ∀ (sg : Signedness) (x y : Coord) (blk : Nat),
  (bc6hModeOf blk = .m11 → decodeBc6h sg x y blk = .bc6hMode11 sg x y
    ⟨⟨slice blk 14 5, slice blk 24 15, slice blk 34 25⟩,
     ⟨slice blk 44 35, slice blk 54 45, slice blk 64 55⟩,
     slice blk 127 65⟩) ∧
  (bc6hModeOf blk = .m12 → decodeBc6h sg x y blk = .bc6hMode12 sg x y
    ⟨⟨slice blk 14 5 + 2 ^ 10 * slice blk 44 44, slice blk 24 15 + 2 ^ 10 * slice blk 54 54, slice blk 34 25 + 2 ^ 10 * slice blk 64 64⟩,
     ⟨slice blk 43 35, slice blk 53 45, slice blk 63 55⟩,
     slice blk 127 65⟩) ∧
  (bc6hModeOf blk = .m13 → decodeBc6h sg x y blk = .bc6hMode13 sg x y
    ⟨⟨slice blk 14 5 + 2 ^ 10 * slice blk 44 44 + 2 ^ 11 * slice blk 43 43, slice blk 24 15 + 2 ^ 10 * slice blk 54 54 + 2 ^ 11 * slice blk 53 53, slice blk 34 25 + 2 ^ 10 * slice blk 64 64 + 2 ^ 11 * slice blk 63 63⟩,
     ⟨slice blk 42 35, slice blk 52 45, slice blk 62 55⟩,
     slice blk 127 65⟩) ∧
  (bc6hModeOf blk = .m14 → decodeBc6h sg x y blk = .bc6hMode14 sg x y
    ⟨⟨slice blk 14 5 + 2 ^ 10 * slice blk 44 44 + 2 ^ 11 * slice blk 43 43 + 2 ^ 12 * slice blk 42 42 + 2 ^ 13 * slice blk 41 41 + 2 ^ 14 * slice blk 40 40 + 2 ^ 15 * slice blk 39 39, slice blk 24 15 + 2 ^ 10 * slice blk 54 54 + 2 ^ 11 * slice blk 53 53 + 2 ^ 12 * slice blk 52 52 + 2 ^ 13 * slice blk 51 51 + 2 ^ 14 * slice blk 50 50 + 2 ^ 15 * slice blk 49 49, slice blk 34 25 + 2 ^ 10 * slice blk 64 64 + 2 ^ 11 * slice blk 63 63 + 2 ^ 12 * slice blk 62 62 + 2 ^ 13 * slice blk 61 61 + 2 ^ 14 * slice blk 60 60 + 2 ^ 15 * slice blk 59 59⟩,
     ⟨slice blk 38 35, slice blk 48 45, slice blk 58 55⟩,
     slice blk 127 65⟩)

/-- R219, R220, R221: the endpoints from the stored fields. The base is unsigned, or in SF16 sign-extended; a transformed endpoint is
the base plus its sign-extended delta, masked to the base width, and in SF16 sign-extended again; an endpoint that is not
transformed is its field, in SF16 sign-extended. The sums are written with the unsigned base in SF16 too: that this does not matter is
a sentence R220 itself marks as derived "from two's-complement arithmetic". -/
def Obligations.Bc6hEndpointsFromFields : Prop :=
  (∀ (d : Bc6hDesc) (w f : Rgb Nat),
    bc6hEndpoint0 .uf16 d w = ⟨(w.r : Int), (w.g : Int), (w.b : Int)⟩ ∧
    bc6hEndpoint0 .sf16 d w = ⟨sext d.epb w.r, sext d.epb w.g, sext d.epb w.b⟩ ∧
    (d.t = true →
      let sum (dw v a : Nat) : Int := (v + sext dw a) % 2 ^ d.epb
      bc6hEndpointK .uf16 d w f = ⟨sum d.dr w.r f.r, sum d.dg w.g f.g, sum d.db w.b f.b⟩ ∧
      bc6hEndpointK .sf16 d w f =
        ⟨sext d.epb (sum d.dr w.r f.r).toNat, sext d.epb (sum d.dg w.g f.g).toNat,
          sext d.epb (sum d.db w.b f.b).toNat⟩) ∧
    (1 ≤ d.epb → ∀ dw v a : Nat, (sext d.epb v + sext dw a) % 2 ^ d.epb = (v + sext dw a) % 2 ^ d.epb) ∧
    (d.t = false →
      bc6hEndpointK .uf16 d w f = ⟨(f.r : Int), (f.g : Int), (f.b : Int)⟩ ∧
      bc6hEndpointK .sf16 d w f = ⟨sext d.epb f.r, sext d.epb f.g, sext d.epb f.b⟩) ∧
    (d.t = true → 1 ≤ d.epb →
      let u := bc6hEndpointK .uf16 d w f
      let v := bc6hEndpointK .sf16 d w f
      (∀ c ∈ [u.r, u.g, u.b], 0 ≤ c ∧ c < 2 ^ d.epb) ∧
      ∀ c ∈ [v.r, v.g, v.b], -(2 : Int) ^ (d.epb - 1) ≤ c ∧ c < 2 ^ (d.epb - 1))) ∧
  bc6hEndpointK .uf16 (bc6hDesc .m3) ⟨2047, 0, 0⟩ ⟨0b00001, 0, 0b1000⟩ = ⟨0, 0, 2040⟩

/-- R222, R223: unquantizing, unsigned toward 0xFFFF and signed toward 0x7FFF with the sign put back. The range of the unsigned results,
that the unsigned map is the identity at 16 bits, and that the two settings of the bypass differ only at −32768 are sentences R222 and R223
themselves mark as derived. -/
def Obligations.Bc6hUnquantizeReachesTheFullRange : Prop :=
  (∀ (n : Nat) (v : Int), 1 ≤ n → n ≤ 16 → 0 ≤ v → v < 2 ^ n →
    (v = 0 → unqU v n = 0) ∧ (v = 2 ^ n - 1 → unqU v n = 0xFFFF) ∧
    (0 < v → v < 2 ^ n - 1 → unqU v n = (v * 2 ^ 15 + 0x4000) / 2 ^ (n - 1)) ∧
    0 ≤ unqU v n ∧ unqU v n ≤ 0xFFFF ∧ (n = 16 → unqU v n = v)) ∧
  (∀ (n : Nat) (v : Int), 2 ≤ n → n ≤ 16 → -(2 : Int) ^ (n - 1) ≤ v → v < 2 ^ (n - 1) →
    (n = 16 → unqS true v n = v) ∧ (n ≠ 16 → unqS true v n = unqS false v n) ∧
    (v = 0 → unqS false v n = 0) ∧
    (0 < |v| → |v| < 2 ^ (n - 1) - 1 → unqS false v n = v.sign * ((|v| * 2 ^ 15 + 0x4000) / 2 ^ (n - 1))) ∧
    (v ≠ 0 → 2 ^ (n - 1) - 1 ≤ |v| → unqS false v n = v.sign * 0x7FFF) ∧
    -0x7FFF ≤ unqS false v n ∧ unqS false v n ≤ 0x7FFF ∧
    (n = 16 → v ≠ -32768 → unqS false v n = v) ∧ (n = 16 → v = -32768 → unqS false v n = -32767)) ∧
  unqU 512 10 = 32800 ∧ unqU 1023 10 = 0xFFFF ∧ unqS true (-512) 10 = -0x7FFF ∧ unqS true (-1) 11 = -48

/-- R227, R228: the finishing step. The ranges of the results, so never a NaN, and infinity only as −∞ at −32768, are sentences R227 and
R228 themselves mark as derived from their formulas. -/
def Obligations.Bc6hFinishGivesHalfPatterns : Prop :=
  (∀ v : Int, 0 ≤ v → v ≤ 0xFFFF → ((finishU v).toNat : Int) = v * 31 / 2 ^ 6 ∧ (finishU v).toNat ≤ 0x7BFF) ∧
  (∀ (negZero : Bool) (v : Int), -32768 ≤ v → v ≤ 32767 →
    (0 ≤ v → ((finishS negZero v).toNat : Int) = v * 31 / 2 ^ 5 ∧ (finishS negZero v).toNat ≤ 0x7BFF) ∧
    (v < 0 → -v * 31 / 2 ^ 5 = 0 → negZero = false → finishS negZero v = 0x0000) ∧
    (v < 0 → (-v * 31 / 2 ^ 5 ≠ 0 ∨ negZero = true) →
      ((finishS negZero v).toNat : Int) = 0x8000 + -v * 31 / 2 ^ 5) ∧
    (-32767 ≤ v → (finishS negZero v).toNat % 2 ^ 15 ≤ 0x7BFF) ∧ (v = -32768 → finishS negZero v = 0xFC00))

/-- R225, R226, R229 for modes 1 to 10: the response of a two-subset block at a pixel. The pixel's subset chooses the endpoints (w, x)
or (y, z); the index of the pixel, cut with the anchors 0 and `A2[p]`, gives one weight of W3 for all three channels; alpha is
1.0. Each mode has its own widths, and each of the ten instructions completes on every operand. -/
def Obligations.Bc6hTwoSubsetModesRespond : Prop :=
  ∀ (s : State) (u : Nat) (q : Request) (rest : List Agent) (sg : Signedness) (x y : Coord) (f : Bc6hTwo),
    s.turn = .serve u q rest →
    let i := 4 * y.toNat + x.toNat
    let subset := partition2 f.p i
    let wt := weight 3 (indexAt f.idx 3 [0, anchor2 f.p] i)
    let unq (n : Nat) (v : Int) : Int :=
      match sg with
      | .uf16 => unqU v n
      | .sf16 => unqS s.cfg.bc6hSf16Bypass16 v n
    let fin (v : Int) : Word16 :=
      match sg with
      | .uf16 => finishU v
      | .sf16 => finishS s.cfg.bc6hSf16NegZero v
    let responds (j : Instr) (d : Bc6hDesc) : Prop :=
      let lo := if subset = 0 then bc6hEndpoint0 sg d f.w else bc6hEndpointK sg d f.w f.y
      let hi := if subset = 0 then bc6hEndpointK sg d f.w f.x else bc6hEndpointK sg d f.w f.z
      let chan (a b : Int) : F32 := halfToFloat (fin (interpolate (unq d.epb a) (unq d.epb b) wt))
      exec j s = .next (s.finish u q rest (.response ⟨chan lo.r hi.r, chan lo.g hi.g, chan lo.b hi.b, 0x3F800000⟩))
    responds (.bc6hMode1 sg x y f) ⟨2, true, 10, 5, 5, 5, 3⟩ ∧ responds (.bc6hMode2 sg x y f) ⟨2, true, 7, 6, 6, 6, 3⟩ ∧
    responds (.bc6hMode3 sg x y f) ⟨2, true, 11, 5, 4, 4, 3⟩ ∧ responds (.bc6hMode4 sg x y f) ⟨2, true, 11, 4, 5, 4, 3⟩ ∧
    responds (.bc6hMode5 sg x y f) ⟨2, true, 11, 4, 4, 5, 3⟩ ∧ responds (.bc6hMode6 sg x y f) ⟨2, true, 9, 5, 5, 5, 3⟩ ∧
    responds (.bc6hMode7 sg x y f) ⟨2, true, 8, 6, 5, 5, 3⟩ ∧ responds (.bc6hMode8 sg x y f) ⟨2, true, 8, 5, 6, 5, 3⟩ ∧
    responds (.bc6hMode9 sg x y f) ⟨2, true, 8, 5, 5, 6, 3⟩ ∧ responds (.bc6hMode10 sg x y f) ⟨2, false, 6, 6, 6, 6, 3⟩

/-- R225, R226, R229 for modes 11 to 14: the response of a one-subset block at a pixel, between `w` and `x`, with a weight of W4 and
the one anchor 0; alpha is 1.0. Each of the four instructions completes on every operand. -/
def Obligations.Bc6hOneSubsetModesRespond : Prop :=
  ∀ (s : State) (u : Nat) (q : Request) (rest : List Agent) (sg : Signedness) (x y : Coord) (f : Bc6hOne),
    s.turn = .serve u q rest →
    let wt := weight 4 (indexAt f.idx 4 [0] (4 * y.toNat + x.toNat))
    let unq (n : Nat) (v : Int) : Int :=
      match sg with
      | .uf16 => unqU v n
      | .sf16 => unqS s.cfg.bc6hSf16Bypass16 v n
    let fin (v : Int) : Word16 :=
      match sg with
      | .uf16 => finishU v
      | .sf16 => finishS s.cfg.bc6hSf16NegZero v
    let responds (j : Instr) (d : Bc6hDesc) : Prop :=
      let lo := bc6hEndpoint0 sg d f.w
      let hi := bc6hEndpointK sg d f.w f.x
      let chan (a b : Int) : F32 := halfToFloat (fin (interpolate (unq d.epb a) (unq d.epb b) wt))
      exec j s = .next (s.finish u q rest (.response ⟨chan lo.r hi.r, chan lo.g hi.g, chan lo.b hi.b, 0x3F800000⟩))
    responds (.bc6hMode11 sg x y f) ⟨1, false, 10, 10, 10, 10, 4⟩ ∧
    responds (.bc6hMode12 sg x y f) ⟨1, true, 11, 9, 9, 9, 4⟩ ∧
    responds (.bc6hMode13 sg x y f) ⟨1, true, 12, 8, 8, 8, 4⟩ ∧
    responds (.bc6hMode14 sg x y f) ⟨1, true, 16, 4, 4, 4, 4⟩

/-- R202, R271, R301: a reserved BC6H block is black with alpha 1 for every pixel and either signedness, a reserved BC7 block is fully
transparent black: responses, whatever the rest of the block holds. -/
def Obligations.ReservedBlocksGiveTheirFallback : Prop :=
  ∀ (s : State) (u : Nat) (q : Request) (rest : List Agent) (sg : Signedness) (x y : Coord) (bits : Nat),
    s.turn = .serve u q rest →
    let responds (i : Instr) (a : F32) : Prop :=
      exec i s = .next (s.finish u q rest (.response ⟨0x00000000, 0x00000000, 0x00000000, a⟩))
    responds (.bc6hReserved13 sg x y bits) 0x3F800000 ∧ responds (.bc6hReserved17 sg x y bits) 0x3F800000 ∧
    responds (.bc6hReserved1B sg x y bits) 0x3F800000 ∧ responds (.bc6hReserved1F sg x y bits) 0x3F800000 ∧
    responds (.bc7ReservedMode x y bits) 0x00000000 ∧
    ∀ blk : Nat,
      ((slice blk 4 0 = 0x13 ∨ slice blk 4 0 = 0x17 ∨ slice blk 4 0 = 0x1B ∨ slice blk 4 0 = 0x1F) →
        responds (decodeBc6h sg x y blk) 0x3F800000) ∧
      (slice blk 7 0 = 0 → responds (decodeBc7 x y blk) 0x00000000)

/-- The BC6H outputs (40_primitives section 3, 44_bc6h section 6): for every block, pixel and parameter setting, alpha is 1.0; every
UF16 channel is a number in [0, 65504]; every SF16 channel is a number in [−65504, 65504], but for −∞, which needs mode 14 and
the 16-bit bypass. Never a NaN. -/
def Obligations.Bc6hOutputsStayInRange : Prop :=
  ∀ (s : State) (u : Nat) (q : Request) (rest : List Agent) (sg : Signedness) (x y : Coord) (blk : Nat),
    s.turn = .serve u q rest →
    ∃ c, exec (decodeBc6h sg x y blk) s = .next (s.finish u q rest (.response c)) ∧ c.a = 0x3F800000 ∧
      ∀ w ∈ [c.r, c.g, c.b],
        (sg = .uf16 → f32Exp w ≠ 255 ∧ 0 ≤ f32Value w ∧ f32Value w ≤ 65504) ∧
        (sg = .sf16 → (f32Exp w ≠ 255 ∧ -65504 ≤ f32Value w ∧ f32Value w ≤ 65504) ∨
          (w = 0xFF800000 ∧ bc6hModeOf blk = .m14 ∧ s.cfg.bc6hSf16Bypass16 = true))

/-! ## BC7 -/

/-- R67, R260: the BC7 mode is the lowest set bit of the first byte: bit m is 1 and the bits below it are 0; no bit set is the reserved
block. -/
def Obligations.Bc7ModeIsTheLowestSetBit : Prop :=
  ∀ blk : Nat,
    (bc7ModeOf blk = .m0 ↔ slice blk 0 0 = 1) ∧ (bc7ModeOf blk = .m1 ↔ slice blk 1 0 = 2 ^ 1) ∧
    (bc7ModeOf blk = .m2 ↔ slice blk 2 0 = 2 ^ 2) ∧ (bc7ModeOf blk = .m3 ↔ slice blk 3 0 = 2 ^ 3) ∧
    (bc7ModeOf blk = .m4 ↔ slice blk 4 0 = 2 ^ 4) ∧ (bc7ModeOf blk = .m5 ↔ slice blk 5 0 = 2 ^ 5) ∧
    (bc7ModeOf blk = .m6 ↔ slice blk 6 0 = 2 ^ 6) ∧ (bc7ModeOf blk = .m7 ↔ slice blk 7 0 = 2 ^ 7) ∧
    (bc7ModeOf blk = .reserved ↔ slice blk 7 0 = 0)

/-- The fields of a BC7 block, bit for bit, as the spec derives their positions from the mode table and the field order (45_bc7
section 2). -/
def Obligations.Bc7Layouts : Prop :=
  ∀ (x y : Coord) (blk : Nat),
  (bc7ModeOf blk = .m0 → decodeBc7 x y blk = .bc7Mode0 x y
    ⟨slice blk 4 1, 0, 0,
     [slice blk 8 5, slice blk 12 9, slice blk 16 13, slice blk 20 17, slice blk 24 21, slice blk 28 25],
     [slice blk 32 29, slice blk 36 33, slice blk 40 37, slice blk 44 41, slice blk 48 45, slice blk 52 49],
     [slice blk 56 53, slice blk 60 57, slice blk 64 61, slice blk 68 65, slice blk 72 69, slice blk 76 73],
     [],
     [slice blk 77 77, slice blk 78 78, slice blk 79 79, slice blk 80 80, slice blk 81 81, slice blk 82 82], slice blk 127 83, 0⟩) ∧
  (bc7ModeOf blk = .m1 → decodeBc7 x y blk = .bc7Mode1 x y
    ⟨slice blk 7 2, 0, 0,
     [slice blk 13 8, slice blk 19 14, slice blk 25 20, slice blk 31 26],
     [slice blk 37 32, slice blk 43 38, slice blk 49 44, slice blk 55 50],
     [slice blk 61 56, slice blk 67 62, slice blk 73 68, slice blk 79 74],
     [],
     [slice blk 80 80, slice blk 81 81], slice blk 127 82, 0⟩) ∧
  (bc7ModeOf blk = .m2 → decodeBc7 x y blk = .bc7Mode2 x y
    ⟨slice blk 8 3, 0, 0,
     [slice blk 13 9, slice blk 18 14, slice blk 23 19, slice blk 28 24, slice blk 33 29, slice blk 38 34],
     [slice blk 43 39, slice blk 48 44, slice blk 53 49, slice blk 58 54, slice blk 63 59, slice blk 68 64],
     [slice blk 73 69, slice blk 78 74, slice blk 83 79, slice blk 88 84, slice blk 93 89, slice blk 98 94],
     [],
     [], slice blk 127 99, 0⟩) ∧
  (bc7ModeOf blk = .m3 → decodeBc7 x y blk = .bc7Mode3 x y
    ⟨slice blk 9 4, 0, 0,
     [slice blk 16 10, slice blk 23 17, slice blk 30 24, slice blk 37 31],
     [slice blk 44 38, slice blk 51 45, slice blk 58 52, slice blk 65 59],
     [slice blk 72 66, slice blk 79 73, slice blk 86 80, slice blk 93 87],
     [],
     [slice blk 94 94, slice blk 95 95, slice blk 96 96, slice blk 97 97], slice blk 127 98, 0⟩) ∧
  (bc7ModeOf blk = .m4 → decodeBc7 x y blk = .bc7Mode4 x y
    ⟨0, slice blk 6 5, slice blk 7 7,
     [slice blk 12 8, slice blk 17 13],
     [slice blk 22 18, slice blk 27 23],
     [slice blk 32 28, slice blk 37 33],
     [slice blk 43 38, slice blk 49 44],
     [], slice blk 80 50, slice blk 127 81⟩) ∧
  (bc7ModeOf blk = .m5 → decodeBc7 x y blk = .bc7Mode5 x y
    ⟨0, slice blk 7 6, 0,
     [slice blk 14 8, slice blk 21 15],
     [slice blk 28 22, slice blk 35 29],
     [slice blk 42 36, slice blk 49 43],
     [slice blk 57 50, slice blk 65 58],
     [], slice blk 96 66, slice blk 127 97⟩) ∧
  (bc7ModeOf blk = .m6 → decodeBc7 x y blk = .bc7Mode6 x y
    ⟨0, 0, 0,
     [slice blk 13 7, slice blk 20 14],
     [slice blk 27 21, slice blk 34 28],
     [slice blk 41 35, slice blk 48 42],
     [slice blk 55 49, slice blk 62 56],
     [slice blk 63 63, slice blk 64 64], slice blk 127 65, 0⟩) ∧
  (bc7ModeOf blk = .m7 → decodeBc7 x y blk = .bc7Mode7 x y
    ⟨slice blk 13 8, 0, 0,
     [slice blk 18 14, slice blk 23 19, slice blk 28 24, slice blk 33 29],
     [slice blk 38 34, slice blk 43 39, slice blk 48 44, slice blk 53 49],
     [slice blk 58 54, slice blk 63 59, slice blk 68 64, slice blk 73 69],
     [slice blk 78 74, slice blk 83 79, slice blk 88 84, slice blk 93 89],
     [slice blk 94 94, slice blk 95 95, slice blk 96 96, slice blk 97 97], slice blk 127 98, 0⟩)

/-- R273, R274, R281 and the unquantize step (45_bc7 section 3): each raw endpoint field is widened by its own p-bit (modes 0, 3, 6, 7,
alpha too), by its subset's (mode 1), or not at all (modes 2, 4, 5), and expanded to 8 bits at the widened precision; alpha is
255 where the mode has no alpha endpoints. The endpoints of a well-formed block lie in 0..255. -/
def Obligations.Bc7EndpointsAreWidenedAndExpanded : Prop :=
  (∀ (vs pb : List Nat) (e n : Nat),
    let v := vs.getD e 0
    (∀ m : Bc7Mode, m = .m0 ∨ m = .m3 ∨ m = .m6 ∨ m = .m7 →
      bc7Endpoint (bc7Desc m) n vs pb e = unq8 (2 * v + pb.getD e 0) (n + 1)) ∧
    bc7Endpoint (bc7Desc .m1) n vs pb e = unq8 (2 * v + pb.getD (e / 2) 0) (n + 1) ∧
    ∀ m : Bc7Mode, m = .m2 ∨ m = .m4 ∨ m = .m5 → bc7Endpoint (bc7Desc m) n vs pb e = unq8 v n) ∧
  (∀ (f : Bc7Fields) (e : Nat),
    (∀ m : Bc7Mode, m = .m0 ∨ m = .m1 ∨ m = .m2 ∨ m = .m3 → bc7AlphaEndpoint (bc7Desc m) f e = 255) ∧
    bc7AlphaEndpoint (bc7Desc .m4) f e = bc7Endpoint (bc7Desc .m4) 6 f.a f.pb e ∧
    bc7AlphaEndpoint (bc7Desc .m5) f e = bc7Endpoint (bc7Desc .m5) 8 f.a f.pb e ∧
    bc7AlphaEndpoint (bc7Desc .m6) f e = bc7Endpoint (bc7Desc .m6) 7 f.a f.pb e ∧
    bc7AlphaEndpoint (bc7Desc .m7) f e = bc7Endpoint (bc7Desc .m7) 5 f.a f.pb e) ∧
  ∀ (m : Bc7Mode) (f : Bc7Fields) (e : Nat), m ≠ .reserved → f.fits (bc7Desc m) = true →
    bc7Endpoint (bc7Desc m) (bc7Desc m).cb f.r f.pb e ≤ 255 ∧ bc7Endpoint (bc7Desc m) (bc7Desc m).cb f.g f.pb e ≤ 255 ∧
    bc7Endpoint (bc7Desc m) (bc7Desc m).cb f.b f.pb e ≤ 255 ∧ bc7AlphaEndpoint (bc7Desc m) f e ≤ 255

/-- R276, R278, R279, R280: the channel values of a pixel. Its subset chooses the endpoint pair; index 1 drives all channels where the
mode has one array, colour by array 1 and alpha by array 2 in mode 5 and in mode 4 with `isel` 0, the other way round with
`isel` 1; rotation swaps alpha with R, G or B afterwards. In a well-formed block every value lies in 0..255. -/
def Obligations.Bc7PixelValues : Prop :=
  (∀ (d : Bc7Desc) (f : Bc7Fields) (i : Nat),
    let s := if d.ns = 2 then partition2 f.p i else if d.ns = 3 then partition3 f.p i else 0
    let chan (vs : List Nat) : Int :=
      interpolate (bc7Endpoint d d.cb vs f.pb (2 * s)) (bc7Endpoint d d.cb vs f.pb (2 * s + 1)) (bc7ColorWeight d f i)
    bc7Values d f i = ⟨chan f.r, chan f.g, chan f.b,
      interpolate (bc7AlphaEndpoint d f (2 * s)) (bc7AlphaEndpoint d f (2 * s + 1)) (bc7AlphaWeight d f i)⟩) ∧
  (∀ (f : Bc7Fields) (i : Nat),
    (∀ m : Bc7Mode, m = .m0 ∨ m = .m1 ∨ m = .m2 ∨ m = .m3 ∨ m = .m6 ∨ m = .m7 →
      let w := weight (bc7Desc m).ib (indexAt f.idx1 (bc7Desc m).ib (anchorsOf (bc7Desc m).ns f.p) i)
      bc7ColorWeight (bc7Desc m) f i = w ∧ bc7AlphaWeight (bc7Desc m) f i = w) ∧
    (f.isel = 0 → bc7ColorWeight (bc7Desc .m4) f i = weight 2 (indexAt f.idx1 2 [0] i) ∧
      bc7AlphaWeight (bc7Desc .m4) f i = weight 3 (indexAt f.idx2 3 [0] i)) ∧
    (f.isel = 1 → bc7ColorWeight (bc7Desc .m4) f i = weight 3 (indexAt f.idx2 3 [0] i) ∧
      bc7AlphaWeight (bc7Desc .m4) f i = weight 2 (indexAt f.idx1 2 [0] i)) ∧
    bc7ColorWeight (bc7Desc .m5) f i = weight 2 (indexAt f.idx1 2 [0] i) ∧
    bc7AlphaWeight (bc7Desc .m5) f i = weight 2 (indexAt f.idx2 2 [0] i)) ∧
  (∀ r g b a : Int, bc7Rotate 0 ⟨r, g, b, a⟩ = ⟨r, g, b, a⟩ ∧ bc7Rotate 1 ⟨r, g, b, a⟩ = ⟨a, g, b, r⟩ ∧
    bc7Rotate 2 ⟨r, g, b, a⟩ = ⟨r, a, b, g⟩ ∧ bc7Rotate 3 ⟨r, g, b, a⟩ = ⟨r, g, a, b⟩) ∧
  ∀ (m : Bc7Mode) (f : Bc7Fields) (i : Nat), m ≠ .reserved → f.fits (bc7Desc m) = true →
    let v := bc7Values (bc7Desc m) f i
    (0 ≤ v.r ∧ v.r ≤ 255) ∧ (0 ≤ v.g ∧ v.g ≤ 255) ∧ (0 ≤ v.b ∧ v.b ≤ 255) ∧ 0 ≤ v.a ∧ v.a ≤ 255

/-- R261, R282: the response of each BC7 mode: every channel value after the rotation over 255, rounded once; each mode with its own
widths. Each of the eight instructions completes on every operand. -/
def Obligations.Bc7ModesRespond : Prop :=
  ∀ (s : State) (u : Nat) (q : Request) (rest : List Agent) (x y : Coord) (f : Bc7Fields), s.turn = .serve u q rest →
    let responds (j : Instr) (d : Bc7Desc) : Prop :=
      let v := bc7Rotate f.rot (bc7Values d f (4 * y.toNat + x.toNat))
      let out (c : Int) : F32 := toF32 s.cfg.toF32 ⟨c.toNat, 255⟩
      exec j s = .next (s.finish u q rest (.response ⟨out v.r, out v.g, out v.b, out v.a⟩))
    responds (.bc7Mode0 x y f) ⟨3, 4, 0, 0, 4, 0, 1, 0, 3, 0⟩ ∧ responds (.bc7Mode1 x y f) ⟨2, 6, 0, 0, 6, 0, 0, 1, 3, 0⟩ ∧
    responds (.bc7Mode2 x y f) ⟨3, 6, 0, 0, 5, 0, 0, 0, 2, 0⟩ ∧ responds (.bc7Mode3 x y f) ⟨2, 6, 0, 0, 7, 0, 1, 0, 2, 0⟩ ∧
    responds (.bc7Mode4 x y f) ⟨1, 0, 2, 1, 5, 6, 0, 0, 2, 3⟩ ∧ responds (.bc7Mode5 x y f) ⟨1, 0, 2, 0, 7, 8, 0, 0, 2, 2⟩ ∧
    responds (.bc7Mode6 x y f) ⟨1, 0, 0, 0, 7, 7, 1, 0, 4, 0⟩ ∧ responds (.bc7Mode7 x y f) ⟨2, 6, 0, 0, 5, 5, 1, 0, 2, 0⟩
end

