-- ==== Sys2Proof/Laws/Decode.lean ====
section
/-! SUPPORT. Packing fields and reading them back: the cursor reads what `pack` lays down, a BC6H row reads what it holds, and a
packed code is as wide as its fields. -/

namespace Sys2Proof

/-! ## Packing -/

/-- The total width of packed fields. -/
def packWidth : List (Nat × Nat) → Nat
  | [] => 0
  | (_, n) :: rest => n + packWidth rest

theorem pack_mod (v n : Nat) (rest : List (Nat × Nat)) : pack ((v, n) :: rest) % 2 ^ n = v % 2 ^ n := by
  simp [pack, Nat.add_mod]

theorem pack_shift (v n : Nat) (rest : List (Nat × Nat)) : pack ((v, n) :: rest) >>> n = pack rest := by
  have hv : v % 2 ^ n < 2 ^ n := Nat.mod_lt _ (Nat.two_pow_pos n)
  simp only [pack]
  rw [Nat.shiftRight_eq_div_pow, Nat.add_mul_div_left _ _ (Nat.two_pow_pos n), Nat.div_eq_of_lt hv, Nat.zero_add]

theorem pack_lt (ps : List (Nat × Nat)) : pack ps < 2 ^ packWidth ps := by
  induction ps with
  | nil => simp [pack, packWidth]
  | cons p rest ih =>
    obtain ⟨v, n⟩ := p
    have hv : v % 2 ^ n < 2 ^ n := Nat.mod_lt _ (Nat.two_pow_pos n)
    simp only [pack, packWidth, Nat.pow_add]
    have h : 2 ^ n * (pack rest + 1) ≤ 2 ^ n * 2 ^ packWidth rest := Nat.mul_le_mul_left _ ih
    rw [Nat.mul_add, Nat.mul_one] at h
    omega

theorem packWidth_append (ps qs : List (Nat × Nat)) : packWidth (ps ++ qs) = packWidth ps + packWidth qs := by
  induction ps with
  | nil => simp [packWidth]
  | cons p rest ih => simp [packWidth, ih, Nat.add_assoc]

theorem packWidth_map (n : Nat) (vs : List Nat) : packWidth (vs.map (·, n)) = vs.length * n := by
  induction vs with
  | nil => simp [packWidth]
  | cons v rest ih => simp [packWidth, ih, Nat.succ_mul, Nat.add_comm]

/-- A block code fits just if its block has 128 bits. -/
theorem block_fits {addrW blk : Nat} (cmd : Word16) (h : blk < 2 ^ 128) : (Code.block cmd blk).fits addrW = true := by
  simp only [Code.fits]
  exact decide_eq_true h

theorem pack_two_lt (v n w m : Nat) (h : n + m = 128) : pack [(v, n), (w, m)] < 2 ^ 128 := by
  have hp := pack_lt [(v, n), (w, m)]
  simp only [packWidth, Nat.add_zero, h] at hp
  exact hp

/-- The field after a prefix of packed fields (20_memory R44). -/
theorem pack_append_shift (ps qs : List (Nat × Nat)) : pack (ps ++ qs) >>> packWidth ps = pack qs := by
  induction ps with
  | nil => simp [packWidth]
  | cons p rest ih =>
    obtain ⟨v, n⟩ := p
    rw [List.cons_append, packWidth, Nat.shiftRight_add, pack_shift, ih]

/-! ## The cursor -/

/-- The bits a cursor has not read. -/
def Cursor.left (c : Cursor) : Nat := c.blk >>> c.pos

/-- A cursor at packed fields reads the first and stands at the others (20_memory R44). -/
theorem Cursor.read_pack {c : Cursor} {v n : Nat} {rest : List (Nat × Nat)} (h : c.left = pack ((v, n) :: rest))
    (hv : v < 2 ^ n) : (c.read n).1 = v ∧ (c.read n).2.left = pack rest := by
  constructor
  · simp only [Cursor.read]
    rw [show c.blk >>> c.pos = c.left from rfl, h, pack_mod, Nat.mod_eq_of_lt hv]
  · simp only [Cursor.read, Cursor.left, Nat.shiftRight_add]
    rw [show c.blk >>> c.pos = c.left from rfl, h, pack_shift]

/-- The same for successive fields of one width. -/
theorem Cursor.readMany_pack {c : Cursor} {n : Nat} {vs : List Nat} {rest : List (Nat × Nat)}
    (h : c.left = pack (vs.map (·, n) ++ rest)) (hv : ∀ v ∈ vs, v < 2 ^ n) :
    (c.readMany n vs.length).1 = vs ∧ (c.readMany n vs.length).2.left = pack rest := by
  induction vs generalizing c with
  | nil => exact ⟨rfl, h⟩
  | cons v vs ih =>
    obtain ⟨h1, h2⟩ := Cursor.read_pack h (hv v List.mem_cons_self)
    obtain ⟨h3, h4⟩ := ih h2 (fun w hw => hv w (List.mem_cons_of_mem _ hw))
    exact ⟨by simp only [List.length_cons, Cursor.readMany, h1, h3], by simpa [Cursor.readMany] using h4⟩

/-! ## BC6H rows -/

theorem reverseBits_lt (n v : Nat) : reverseBits n v < 2 ^ n := by
  induction n generalizing v with
  | zero => simp [reverseBits]
  | succ n ih =>
    have h := ih (v / 2)
    simp only [reverseBits, Nat.pow_succ]
    have : v % 2 ≤ 1 := by omega
    have := Nat.mul_le_mul_right (2 ^ n) this
    omega

theorem reverseBits_top (n a w : Nat) (ha : a < 2) (hw : w < 2 ^ n) :
    reverseBits (n + 1) (a * 2 ^ n + w) = 2 * reverseBits n w + a := by
  induction n generalizing w with
  | zero =>
    simp only [Nat.pow_zero, Nat.lt_one_iff] at hw
    subst hw
    simp [reverseBits, Nat.mod_eq_of_lt ha]
  | succ n ih =>
    have hm : (a * 2 ^ (n + 1) + w) % 2 = w % 2 := by
      rw [Nat.pow_succ, ← Nat.mul_assoc, Nat.add_comm, Nat.add_mul_mod_self_right]
    have hd : (a * 2 ^ (n + 1) + w) / 2 = a * 2 ^ n + w / 2 := by
      rw [Nat.pow_succ, ← Nat.mul_assoc, Nat.add_comm, Nat.add_mul_div_right _ _ (by omega), Nat.add_comm]
    have hw2 : w / 2 < 2 ^ n := by rw [Nat.pow_succ] at hw; omega
    rw [reverseBits, hm, hd, ih (w / 2) hw2, show reverseBits (n + 1) w = w % 2 * 2 ^ n + reverseBits n (w / 2) from rfl,
      Nat.pow_succ]
    ring

/-- Reversing twice changes nothing: a reversed row reads back what it holds (44_bc6h R217, R218). -/
theorem reverseBits_reverseBits (n v : Nat) (hv : v < 2 ^ n) : reverseBits n (reverseBits n v) = v := by
  induction n generalizing v with
  | zero => simp only [Nat.pow_zero, Nat.lt_one_iff] at hv; simp [reverseBits, hv]
  | succ n ih =>
    have h2 : v / 2 < 2 ^ n := by rw [Nat.pow_succ] at hv; omega
    rw [show reverseBits (n + 1) v = v % 2 * 2 ^ n + reverseBits n (v / 2) from rfl,
      reverseBits_top n (v % 2) _ (Nat.mod_lt _ (by omega)) (reverseBits_lt n (v / 2)), ih _ h2]
    omega

theorem slice_lt (v hi lo : Nat) : slice v hi lo < 2 ^ (hi + 1 - lo) := Nat.mod_lt _ (Nat.two_pow_pos _)

/-- Rows laid one after another from block bit `lo` up, each as wide as its part of the field. -/
def rowsFrom (lo : Nat) : List Bc6hRow → Bool
  | [] => true
  | r :: rest =>
    decide (r.lo = lo) && decide (r.lo ≤ r.hi) && decide (r.fhi + r.lo = r.hi + r.flo) && rowsFrom (r.hi + 1) rest

/-- What a row contributes to its field once it is packed: its part of the field. -/
theorem row_read_write {blk v : Nat} {r : Bc6hRow} (hlen : r.fhi + r.lo = r.hi + r.flo)
    (h : slice blk r.hi r.lo = r.write v) : r.read blk = slice v r.fhi r.flo * 2 ^ r.flo := by
  have hw : r.fhi + 1 - r.flo = r.hi + 1 - r.lo := by omega
  have hlt : slice v r.fhi r.flo < 2 ^ (r.hi + 1 - r.lo) := hw ▸ slice_lt v r.fhi r.flo
  simp only [Bc6hRow.read, h, Bc6hRow.write]
  by_cases hr : r.rev = true
  · simp only [hr, if_true, reverseBits_reverseBits _ _ hlt]
  · simp only [hr, Bool.false_eq_true, if_false]

theorem write_lt {v : Nat} {r : Bc6hRow} (hlen : r.fhi + r.lo = r.hi + r.flo) : r.write v < 2 ^ (r.hi + 1 - r.lo) := by
  have hw : r.fhi + 1 - r.flo = r.hi + 1 - r.lo := by omega
  simp only [Bc6hRow.write]
  split
  · exact reverseBits_lt _ _
  · exact hw ▸ slice_lt v r.fhi r.flo

/-- Each row of a layout finds its own bits in a packed block. -/
theorem slice_packed_rows {get : Bc6hField → Nat} {rows : List Bc6hRow} {lo blk : Nat} (hr : rowsFrom lo rows = true)
    (h : blk >>> lo = pack (rows.map (fun r => (r.write (get r.fld), r.hi + 1 - r.lo)))) :
    ∀ r ∈ rows, r.read blk = slice (get r.fld) r.fhi r.flo * 2 ^ r.flo := by
  induction rows generalizing lo with
  | nil => simp
  | cons r rest ih =>
    simp only [rowsFrom, Bool.and_eq_true, decide_eq_true_eq] at hr
    obtain ⟨⟨⟨rfl, hle⟩, hlen⟩, hrest⟩ := hr
    have hnext : blk >>> (r.hi + 1) = pack (rest.map (fun r => (r.write (get r.fld), r.hi + 1 - r.lo))) := by
      rw [show r.hi + 1 = r.lo + (r.hi + 1 - r.lo) by omega, Nat.shiftRight_add, h, List.map_cons, pack_shift]
    intro r' hmem
    rcases List.mem_cons.mp hmem with rfl | hmem
    · refine row_read_write hlen ?_
      rw [slice, h, List.map_cons, pack_mod, Nat.mod_eq_of_lt (write_lt hlen)]
    · exact ih hrest hnext r' hmem

/-- A field of a packed BC6H block is the sum of its parts (44_bc6h R204). -/
theorem fieldAt_packRows (code len : Nat) (rows : List Bc6hRow) (get : Bc6hField → Nat) (fld : Bc6hField)
    (hr : rowsFrom len rows = true) :
    fieldAt rows (packRows code len rows get) fld =
      ((rows.filter (fun r => r.fld = fld)).map (fun r => slice (get fld) r.fhi r.flo * 2 ^ r.flo)).sum := by
  have h : packRows code len rows get >>> len = pack (rows.map (fun r => (r.write (get r.fld), r.hi + 1 - r.lo))) :=
    pack_shift code len _
  unfold fieldAt
  congr 1
  refine List.map_congr_left ?_
  intro r hmem
  simp only [List.mem_filter, decide_eq_true_eq] at hmem
  rw [slice_packed_rows hr h r hmem.1, hmem.2]

/-- The mode code of a packed BC6H block stands in its low bits. -/
theorem packRows_mod (code len : Nat) (rows : List Bc6hRow) (get : Bc6hField → Nat) :
    packRows code len rows get % 2 ^ len = code % 2 ^ len := pack_mod code len _

/-- The width of a packed layout. -/
def layoutWidth (len : Nat) (rows : List Bc6hRow) : Nat := len + (rows.map (fun r => r.hi + 1 - r.lo)).sum

theorem packWidth_rows (get : Bc6hField → Nat) (rows : List Bc6hRow) :
    packWidth (rows.map (fun r => (r.write (get r.fld), r.hi + 1 - r.lo))) = (rows.map (fun r => r.hi + 1 - r.lo)).sum := by
  induction rows with
  | nil => rfl
  | cons r rest ih => simp [packWidth, ih]

theorem packRows_lt (code len : Nat) (rows : List Bc6hRow) (get : Bc6hField → Nat) (h : layoutWidth len rows = 128) :
    packRows code len rows get < 2 ^ 128 := by
  have hp := pack_lt ((code, len) :: rows.map (fun r => (r.write (get r.fld), r.hi + 1 - r.lo)))
  rw [packWidth, packWidth_rows] at hp
  rw [← h]
  exact hp

/-- Each BC6H layout lies row after row from its mode field up and fills 128 bits (44_bc6h R204). -/
theorem layouts_from :
    rowsFrom 2 bc6hLayout1 = true ∧ rowsFrom 2 bc6hLayout2 = true ∧ rowsFrom 5 bc6hLayout3 = true ∧
    rowsFrom 5 bc6hLayout4 = true ∧ rowsFrom 5 bc6hLayout5 = true ∧ rowsFrom 5 bc6hLayout6 = true ∧
    rowsFrom 5 bc6hLayout7 = true ∧ rowsFrom 5 bc6hLayout8 = true ∧ rowsFrom 5 bc6hLayout9 = true ∧
    rowsFrom 5 bc6hLayout10 = true ∧ rowsFrom 5 bc6hLayout11 = true ∧ rowsFrom 5 bc6hLayout12 = true ∧
    rowsFrom 5 bc6hLayout13 = true ∧ rowsFrom 5 bc6hLayout14 = true := by decide

/-! ## BC7 blocks -/

/-- The width of a BC7 mode's block by its descriptor (45_bc7 R262). -/
def bc7Width (m : Nat) (d : Machine.Bc7Desc) : Nat :=
  m + 1 + d.pb + d.rb + d.isb + 3 * (d.endpoints * d.cb) + d.alphaEndpoints * d.ab + d.pbits + d.idx1Bits + d.idx2Bits

/-- "Every mode fills exactly 128 bits" (45_bc7 R262). -/
theorem bc7Width_eq :
    bc7Width 0 (Machine.bc7Desc .m0) = 128 ∧ bc7Width 1 (Machine.bc7Desc .m1) = 128 ∧
    bc7Width 2 (Machine.bc7Desc .m2) = 128 ∧ bc7Width 3 (Machine.bc7Desc .m3) = 128 ∧
    bc7Width 4 (Machine.bc7Desc .m4) = 128 ∧ bc7Width 5 (Machine.bc7Desc .m5) = 128 ∧
    bc7Width 6 (Machine.bc7Desc .m6) = 128 ∧ bc7Width 7 (Machine.bc7Desc .m7) = 128 := by decide

/-- The fields of a well-formed BC7 block are as many as its mode has. -/
theorem bc7_lengths {d : Machine.Bc7Desc} {f : Bc7Fields} (h : f.fits d = true) :
    f.r.length = d.endpoints ∧ f.g.length = d.endpoints ∧ f.b.length = d.endpoints ∧
    f.a.length = d.alphaEndpoints ∧ f.pb.length = d.pbits := by
  simp only [Bc7Fields.fits, fieldsFit, Bool.and_eq_true, decide_eq_true_eq] at h
  tauto

theorem bc7_toBlock_lt {m : Nat} {d : Machine.Bc7Desc} {f : Bc7Fields} (h : f.fits d = true) (hw : bc7Width m d = 128) :
    f.toBlock m d < 2 ^ 128 := by
  have hp := pack_lt ((2 ^ m, m + 1) :: f.pieces d)
  obtain ⟨hr, hg, hb, ha, hpb⟩ := bc7_lengths h
  have hwidth : packWidth ((2 ^ m, m + 1) :: f.pieces d) = bc7Width m d := by
    simp only [packWidth, Bc7Fields.pieces, packWidth_append, packWidth_map, hr, hg, hb, ha, hpb, bc7Width]
    omega
  rw [hwidth, hw] at hp
  exact hp

end Sys2Proof
end

