-- ==== Sys2Proof/Laws/Memory.lean ====
section
/-! SUPPORT. The launch buffer: every memory operation keeps the canonical form, and reading gives what was laid down. -/

namespace Sys2Proof.Machine

theorem wfFrom_mono {lo lo' : Nat} {m : List Host.Cell} (h : lo' ≤ lo) (hm : Memory.wfFrom lo m = true) :
    Memory.wfFrom lo' m = true := by
  cases m with
  | nil => rfl
  | cons c rest =>
    obtain ⟨a, b⟩ := c
    simp only [Memory.wfFrom, Bool.and_eq_true, decide_eq_true_eq] at hm ⊢
    exact ⟨⟨by omega, hm.1.2⟩, hm.2⟩

/-- Below the first address listed, a canonical memory reads 0. -/
theorem read_below {lo addr : Nat} {m : List Host.Cell} (hm : Memory.wfFrom lo m = true) (h : addr < lo) :
    Memory.read m addr = 0 := by
  induction m generalizing lo with
  | nil => rfl
  | cons c rest ih =>
    obtain ⟨a, b⟩ := c
    simp only [Memory.wfFrom, Bool.and_eq_true, decide_eq_true_eq] at hm
    simp only [Memory.read]
    rw [if_neg (by omega)]
    exact ih hm.2 (by omega)

theorem ofBytes_wfFrom (base : Nat) (bytes : List Byte) : Memory.wfFrom base (Memory.ofBytes base bytes) = true := by
  induction bytes generalizing base with
  | nil => rfl
  | cons b rest ih =>
    simp only [Memory.ofBytes]
    split
    · exact wfFrom_mono (Nat.le_succ base) (ih (base + 1))
    · rename_i hb
      simp only [Memory.wfFrom, Bool.and_eq_true, decide_eq_true_eq]
      exact ⟨⟨Nat.le_refl base, hb⟩, ih (base + 1)⟩

theorem ofBytes_below (base : Nat) (bytes : List Byte) :
    (Memory.ofBytes base bytes).all (fun c => decide (c.1 < base + bytes.length)) = true := by
  induction bytes generalizing base with
  | nil => rfl
  | cons b rest ih =>
    have h := ih (base + 1)
    simp only [List.length_cons, Nat.add_assoc, Nat.add_comm 1] at h ⊢
    simp only [Memory.ofBytes]
    split
    · exact h
    · simp only [List.all_cons, Bool.and_eq_true, decide_eq_true_eq]
      exact ⟨by omega, h⟩

/-- A buffer the host hands over is in canonical form. -/
theorem ofBytes_wf (bytes : List Byte) : Memory.wf bytes.length (Memory.ofBytes 0 bytes) = true := by
  have h := ofBytes_below 0 bytes
  rw [Nat.zero_add] at h
  simp only [Memory.wf, Bool.and_eq_true]
  exact ⟨ofBytes_wfFrom 0 bytes, h⟩

/-- The buffer holds the bytes the host handed over (20_memory R40). -/
theorem read_ofBytes (base k : Nat) (bytes : List Byte) :
    Memory.read (Memory.ofBytes base bytes) (base + k) = bytes.getD k 0 := by
  induction bytes generalizing base k with
  | nil => rfl
  | cons b rest ih =>
    simp only [Memory.ofBytes]
    cases k with
    | zero =>
      split
      · rename_i hb
        simpa [hb] using read_below (ofBytes_wfFrom (base + 1) rest) (Nat.lt_succ_self base)
      · simp [Memory.read]
    | succ k =>
      have h := ih (base + 1) k
      rw [Nat.add_assoc, Nat.add_comm 1] at h
      split
      · simpa using h
      · simp only [Memory.read]
        rw [if_neg (by omega)]
        simpa using h

theorem write_wfFrom {lo addr : Nat} (v : Byte) {m : List Host.Cell} (hm : Memory.wfFrom lo m = true) (h : lo ≤ addr) :
    Memory.wfFrom lo (Memory.write addr v m) = true := by
  induction m generalizing lo with
  | nil =>
    simp only [Memory.write]
    split
    · rfl
    · rename_i hv
      simp only [Memory.wfFrom, Bool.and_eq_true, decide_eq_true_eq]
      exact ⟨⟨h, hv⟩, trivial⟩
  | cons c rest ih =>
    obtain ⟨a, b⟩ := c
    have hm0 := hm
    simp only [Memory.wfFrom, Bool.and_eq_true, decide_eq_true_eq] at hm
    simp only [Memory.write]
    split
    · rename_i ha
      simp only [Memory.wfFrom, Bool.and_eq_true, decide_eq_true_eq]
      exact ⟨hm.1, ih hm.2 ha⟩
    · split
      · rename_i ha
        subst ha
        split
        · exact wfFrom_mono (by omega) hm.2
        · rename_i hv
          simp only [Memory.wfFrom, Bool.and_eq_true, decide_eq_true_eq]
          exact ⟨⟨h, hv⟩, hm.2⟩
      · split
        · exact hm0
        · rename_i hv
          simp only [Memory.wfFrom, Bool.and_eq_true, decide_eq_true_eq]
          exact ⟨⟨h, hv⟩, ⟨by omega, hm.1.2⟩, hm.2⟩

theorem write_all_below {len addr : Nat} (v : Byte) {m : List Host.Cell}
    (hm : m.all (fun c => decide (c.1 < len)) = true) (h : addr < len) :
    (Memory.write addr v m).all (fun c => decide (c.1 < len)) = true := by
  induction m with
  | nil =>
    simp only [Memory.write]
    split <;> simp [h]
  | cons c rest ih =>
    obtain ⟨a, b⟩ := c
    simp only [List.all_cons, Bool.and_eq_true, decide_eq_true_eq] at hm
    simp only [Memory.write]
    split
    · simp only [List.all_cons, Bool.and_eq_true, decide_eq_true_eq]
      exact ⟨hm.1, ih hm.2⟩
    · have hall : ((a, b) :: rest).all (fun c => decide (c.1 < len)) = true := by
        simp only [List.all_cons, Bool.and_eq_true, decide_eq_true_eq]
        exact hm
      split <;> split
      · exact hm.2
      · simp only [List.all_cons, Bool.and_eq_true, decide_eq_true_eq]
        exact ⟨h, hm.2⟩
      · exact hall
      · rw [List.all_cons, hall, Bool.and_true]
        exact decide_eq_true h

/-- A write inside the buffer keeps the canonical form. -/
theorem write_wf {len addr : Nat} (v : Byte) {m : List Host.Cell} (hm : Memory.wf len m = true) (h : addr < len) :
    Memory.wf len (Memory.write addr v m) = true := by
  simp only [Memory.wf, Bool.and_eq_true] at hm ⊢
  exact ⟨write_wfFrom v hm.1 (Nat.zero_le _), write_all_below v hm.2 h⟩

theorem writeBytes_wf {len : Nat} (addr : Nat) (bytes : List Byte) {m : List Host.Cell} (hm : Memory.wf len m = true)
    (h : addr + bytes.length ≤ len) : Memory.wf len (Memory.writeBytes addr bytes m) = true := by
  induction bytes generalizing addr m with
  | nil => exact hm
  | cons b rest ih =>
    simp only [List.length_cons] at h
    exact ih (addr + 1) (write_wf b hm (by omega)) (by omega)

/-- A byte reads back as it was written. -/
theorem read_write_same {lo addr : Nat} (v : Byte) {m : List Host.Cell} (hm : Memory.wfFrom lo m = true) :
    Memory.read (Memory.write addr v m) addr = v := by
  induction m generalizing lo with
  | nil =>
    simp only [Memory.write]
    split
    · rename_i hv; simp [Memory.read, hv]
    · simp [Memory.read]
  | cons c rest ih =>
    obtain ⟨a, b⟩ := c
    simp only [Memory.wfFrom, Bool.and_eq_true, decide_eq_true_eq] at hm
    simp only [Memory.write]
    split
    · rename_i ha
      simp only [Memory.read]
      rw [if_neg (by omega)]
      exact ih hm.2
    · split
      · rename_i ha
        subst ha
        split
        · rename_i hv
          rw [hv]
          exact read_below hm.2 (Nat.lt_succ_self a)
        · simp [Memory.read]
      · split
        · rename_i hv
          simp only [Memory.read]
          rw [if_neg (by omega), hv]
          exact read_below hm.2 (by omega)
        · simp [Memory.read]

/-- A write leaves every other byte alone. -/
theorem read_write_other {addr other : Nat} (v : Byte) (m : List Host.Cell) (h : other ≠ addr) :
    Memory.read (Memory.write addr v m) other = Memory.read m other := by
  induction m with
  | nil =>
    simp only [Memory.write]
    split
    · rfl
    · simp only [Memory.read]
      rw [if_neg (by omega)]
  | cons c rest ih =>
    obtain ⟨a, b⟩ := c
    simp only [Memory.write]
    split
    · simp only [Memory.read, ih]
    · split
      · rename_i ha
        subst ha
        split <;> simp only [Memory.read] <;> rw [if_neg (by omega)]
        rw [if_neg (by omega)]
      · split
        · rfl
        · simp only [Memory.read]
          rw [if_neg (by omega)]

/-- An address of the launch buffer holds a byte, and no other address does (20_memory R40, R42). -/
theorem readByte_isSome (s : State) (addr : Nat) :
    (s.readByte addr).isSome = true ↔ ∃ len, s.launch = some len ∧ addr < len := by
  unfold State.readByte
  cases h : s.launch with
  | none => simp
  | some len => by_cases ha : addr < len <;> simp [ha]

/-- A read of `n + 1` bytes answers just if they all exist (20_memory R42). -/
theorem memRead_isSome (s : State) (addr n : Nat) :
    (s.memRead addr (n + 1)).isSome = true ↔ ∃ len, s.launch = some len ∧ addr + (n + 1) ≤ len := by
  induction n generalizing addr with
  | zero =>
    have h := readByte_isSome s addr
    cases hb : s.readByte addr with
    | none => simp [State.memRead, hb] at h ⊢; intro len hl; have := h len hl; omega
    | some b =>
      simp only [hb, Option.isSome_some, true_iff] at h
      simp only [State.memRead, hb, Option.isSome_some, true_iff]
      obtain ⟨len, hl, ha⟩ := h
      exact ⟨len, hl, by omega⟩
  | succ n ih =>
    have h := readByte_isSome s addr
    have h2 := ih (addr + 1)
    rw [State.memRead]
    constructor
    · intro hs
      split at hs
      · rename_i b rest hb hr
        rw [hr] at h2
        obtain ⟨len, hl, ha⟩ := h2.mp rfl
        exact ⟨len, hl, by omega⟩
      · simp at hs
    · rintro ⟨len, hl, ha⟩
      obtain ⟨b, hb⟩ := Option.isSome_iff_exists.mp (h.mpr ⟨len, hl, by omega⟩)
      obtain ⟨r, hr⟩ := Option.isSome_iff_exists.mp (h2.mpr ⟨len, hl, by omega⟩)
      simp [hb, hr]

theorem reset_memory_wf : Memory.wf 0 State.reset.mem = true := rfl

end Sys2Proof.Machine
end

