-- ==== Sys2Proof/Laws/State.lean ====
section
/-! SUPPORT. One lemma per field of `State` for each update of it. -/

namespace Sys2Proof.Machine

section Finish

variable (s : State) (u : Nat) (q : Request) (rest : List Agent) (o : ReqOutcome)

@[simp] theorem finish_cfg : (s.finish u q rest o).cfg = s.cfg := rfl
@[simp] theorem finish_units : (s.finish u q rest o).units = s.units.set u ⟨none⟩ := rfl
@[simp] theorem finish_launch : (s.finish u q rest o).launch = s.launch := rfl
@[simp] theorem finish_mem : (s.finish u q rest o).mem = s.mem := rfl
@[simp] theorem finish_outcomes : (s.finish u q rest o).outcomes = s.outcomes ++ [⟨q, o⟩] := rfl
@[simp] theorem finish_launchStart : (s.finish u q rest o).launchStart = s.launchStart := rfl
@[simp] theorem finish_host : (s.finish u q rest o).host = s.host := rfl
@[simp] theorem finish_schedule : (s.finish u q rest o).schedule = rest := rfl

end Finish

section MakeMove

variable (s : State) (bytes : List Byte) (u : Nat) (q : Request) (m : HostMove)

@[simp] theorem makeMove_cfg : (s.makeMove m).cfg = s.cfg := by cases m <;> rfl
@[simp] theorem makeMove_outcomes : (s.makeMove m).outcomes = s.outcomes := by cases m <;> rfl
@[simp] theorem makeMove_host : (s.makeMove m).host = s.host := by cases m <;> rfl
@[simp] theorem makeMove_schedule : (s.makeMove m).schedule = s.schedule := by cases m <;> rfl
@[simp] theorem launch_units : (s.makeMove (.launch bytes)).units = s.units := rfl
@[simp] theorem launch_launch : (s.makeMove (.launch bytes)).launch = some bytes.length := rfl
@[simp] theorem launch_mem : (s.makeMove (.launch bytes)).mem = Memory.ofBytes 0 bytes := rfl
@[simp] theorem launch_launchStart : (s.makeMove (.launch bytes)).launchStart = s.outcomes.length := rfl
@[simp] theorem issue_units : (s.makeMove (.issue u q)).units = s.units.set u ⟨some q⟩ := rfl
@[simp] theorem issue_launch : (s.makeMove (.issue u q)).launch = s.launch := rfl
@[simp] theorem issue_mem : (s.makeMove (.issue u q)).mem = s.mem := rfl
@[simp] theorem issue_launchStart : (s.makeMove (.issue u q)).launchStart = s.launchStart := rfl
@[simp] theorem resetMove_units : (s.makeMove .reset).units = s.units.map (fun _ => ⟨none⟩) := rfl
@[simp] theorem resetMove_launch : (s.makeMove .reset).launch = s.launch := rfl
@[simp] theorem resetMove_mem : (s.makeMove .reset).mem = s.mem := rfl
@[simp] theorem resetMove_launchStart : (s.makeMove .reset).launchStart = s.launchStart := rfl
@[simp] theorem endLaunch_units : (s.makeMove .endLaunch).units = s.units := rfl
@[simp] theorem endLaunch_launch : (s.makeMove .endLaunch).launch = none := rfl
@[simp] theorem endLaunch_mem : (s.makeMove .endLaunch).mem = [] := rfl
@[simp] theorem endLaunch_launchStart : (s.makeMove .endLaunch).launchStart = s.launchStart := rfl

end MakeMove

section Load

variable (s : State) (q : Request) (blk : Nat)

@[simp] theorem loadRequest_cfg : (s.loadRequest q).cfg = s.cfg := rfl
@[simp] theorem loadRequest_units : (s.loadRequest q).units = ⟨some q⟩ :: s.units.tail := rfl
@[simp] theorem loadRequest_launch : (s.loadRequest q).launch = s.launch := rfl
@[simp] theorem loadRequest_mem : (s.loadRequest q).mem = s.mem := rfl
@[simp] theorem loadRequest_outcomes : (s.loadRequest q).outcomes = s.outcomes := rfl
@[simp] theorem loadRequest_launchStart : (s.loadRequest q).launchStart = s.launchStart := rfl
@[simp] theorem loadRequest_host : (s.loadRequest q).host = s.host := rfl
@[simp] theorem loadRequest_schedule : (s.loadRequest q).schedule = .unit 0 :: s.schedule := rfl
@[simp] theorem placeBlock_cfg : (s.placeBlock blk).cfg = s.cfg := rfl
@[simp] theorem placeBlock_units : (s.placeBlock blk).units = s.units := rfl
@[simp] theorem placeBlock_launch : (s.placeBlock blk).launch = some (max 16 (s.launch.getD 16)) := rfl
@[simp] theorem placeBlock_mem : (s.placeBlock blk).mem = Memory.writeBytes 0 (bytesOf blk 16) s.mem := rfl
@[simp] theorem placeBlock_outcomes : (s.placeBlock blk).outcomes = s.outcomes := rfl
@[simp] theorem placeBlock_launchStart : (s.placeBlock blk).launchStart = s.launchStart := rfl
@[simp] theorem placeBlock_host : (s.placeBlock blk).host = s.host := rfl
@[simp] theorem placeBlock_schedule : (s.placeBlock blk).schedule = s.schedule := rfl

theorem loadRequest_turn : (s.loadRequest q).turn = .serve 0 q s.schedule := rfl

end Load

end Sys2Proof.Machine
end

