-- ==== Sys2Proof/Laws/Ops.lean ====
section
/-! SUPPORT. What each shared operation can do, said once. -/

namespace Sys2Proof.Machine

variable {s t : State} {u : Nat} {q : Request} {rest : List Agent}

/-- Ending the request that is served. -/
theorem deliver_serve (o : Request → ReqOutcome) (h : s.turn = .serve u q rest) :
    deliver o s = .next (s.finish u q rest (o q)) := by
  simp only [deliver, h]

/-- A request ends only where one is served, and its end is all that changes. -/
theorem deliver_next {o : Request → ReqOutcome} (h : deliver o s = .next t) :
    ∃ u q rest, s.turn = .serve u q rest ∧ t = s.finish u q rest (o q) := by
  simp only [deliver] at h
  split at h
  · rename_i u q rest ht
    exact ⟨u, q, rest, ht, by simpa using h.symm⟩
  · cases h
  · cases h

theorem respond_serve (c : Color) (h : s.turn = .serve u q rest) :
    respond c s = .next (s.finish u q rest (.response c)) := deliver_serve _ h

theorem takeFault_serve (k : FaultKind) (size : Nat) (h : s.turn = .serve u q rest) :
    takeFault k size s = .next (s.finish u q rest (.fault ⟨k.code, q.cmd, q.off, size⟩)) := deliver_serve _ h

theorem refuse_serve (k : RefuseKind) (h : s.turn = .serve u q rest) :
    refuse k s = .next (s.finish u q rest (.refused k)) := deliver_serve _ h

/-- The block is inside the buffer: the continuation runs on it. -/
theorem withBlock_some {off size blk : Nat} {k : Nat → State → Host.Outcome State Fault Refusal}
    (h : s.memRead off size = some blk) : withBlock off size k s = k blk s := by
  simp only [withBlock, h]

/-- The block is not wholly inside the buffer: the fault, whatever the continuation. -/
theorem withBlock_none {off size : Nat} {k : Nat → State → Host.Outcome State Fault Refusal}
    (h : s.memRead off size = none) : withBlock off size k s = takeFault .blockOutOfBounds size s := by
  simp only [withBlock, h]

/-- Everything a fetch can do: the fault, or the continuation on the block. -/
theorem withBlock_cases (off size : Nat) (k : Nat → State → Host.Outcome State Fault Refusal) (s : State) :
    (s.memRead off size = none ∧ withBlock off size k s = takeFault .blockOutOfBounds size s) ∨
    ∃ blk, s.memRead off size = some blk ∧ withBlock off size k s = k blk s := by
  cases h : s.memRead off size with
  | none => exact .inl ⟨rfl, withBlock_none h⟩
  | some blk => exact .inr ⟨blk, rfl, withBlock_some h⟩

theorem turn_unit {v : Nat} {rest : List Agent} (h : s.schedule = .unit v :: rest) (hq : s.latchOf v = some q) :
    s.turn = .serve v q rest := by
  simp only [State.turn, h, hq]

/-- What the first busy unit is: its latch holds the request, and every unit before it is idle. -/
theorem firstBusy_some {base : Nat} {ds : List DecoderUnit} (h : firstBusy base ds = some (u, q)) :
    ∃ k, u = base + k ∧ (ds.getD k ⟨none⟩).latch = some q := by
  induction ds generalizing base with
  | nil => simp [firstBusy] at h
  | cons d rest ih =>
    simp only [firstBusy] at h
    split at h
    · rename_i q' hd
      simp only [Option.some.injEq, Prod.mk.injEq] at h
      exact ⟨0, by omega, by simp [hd, h.2]⟩
    · obtain ⟨k, hk, hq⟩ := ih h
      exact ⟨k + 1, by omega, by simpa using hq⟩

/-- The request served is the one in the serving unit's latch. -/
theorem turn_latchOf (h : s.turn = .serve u q rest) : s.latchOf u = some q := by
  unfold State.turn at h
  split at h
  · split at h
    · rename_i v rest' q' hq
      simp only [Turn.serve.injEq] at h
      obtain ⟨rfl, rfl, -⟩ := h
      exact hq
    · cases h
  · cases h
  · split at h
    · rename_i v q' hb
      simp only [Turn.serve.injEq] at h
      obtain ⟨rfl, rfl, -⟩ := h
      obtain ⟨k, hk, hq⟩ := firstBusy_some hb
      rw [Nat.zero_add] at hk
      subst hk
      exact hq
    · cases h

/-- A unit whose request is served exists. -/
theorem turn_lt (h : s.turn = .serve u q rest) : u < s.units.length := by
  have hq := turn_latchOf h
  by_contra hu
  simp only [State.latchOf] at hq
  rw [List.getD_eq_default _ _ (by omega)] at hq
  cases hq

/-- A step serves a request, or the host moves, or an idle unit waits. -/
theorem step_cases (s : State) :
    (∃ u q rest, s.turn = .serve u q rest ∧ step s = serve q s) ∨
    (∃ rest, s.turn = .host rest ∧ step s = .next (s.hostTurn rest)) ∨
    (∃ rest, s.turn = .wait rest ∧ step s = .next { s with schedule := rest }) := by
  cases h : s.turn with
  | serve u q rest => exact .inl ⟨u, q, rest, rfl, by simp only [step, h]⟩
  | host rest => exact .inr (.inl ⟨rest, rfl, by simp only [step, h]⟩)
  | wait rest => exact .inr (.inr ⟨rest, rfl, by simp only [step, h]⟩)

/-- The host's turn: it waits, or makes its next move. -/
theorem hostTurn_cases (s : State) (rest : List Agent) :
    s.hostTurn rest = { s with schedule := rest } ∨
    ∃ m ms, s.host = m :: ms ∧ s.mayMove m = true ∧
      s.hostTurn rest = { (s.makeMove m) with host := ms, schedule := rest } := by
  unfold State.hostTurn
  split
  · exact .inl rfl
  · rename_i m ms hh
    split
    · rename_i hm; exact .inr ⟨m, ms, hh, hm, rfl⟩
    · exact .inl rfl

end Sys2Proof.Machine
end

