-- ==== Sys2Proof/Laws/PerInstr.lean ====
section
/-! SUPPORT. Statements about every instruction as syntax, one lemma per constructor: the code of a well-formed instruction fits
its place. -/

namespace Sys2Proof.Laws.EncodesInWidth

/-- A well-formed instruction is encoded within the width of its place: a request's offset in `ADDR_W` bits, a block in 128 bits
(30_encoding R60, R65). -/
def Statement (i : Instr) : Prop := ∀ addrW, i.wellFormed addrW = true → (encode i).fits addrW = true

theorem decBc1 (x y : Coord) (off : Nat) : Statement (.decBc1 x y off) := fun _ h => h

theorem decBc3 (x y : Coord) (off : Nat) : Statement (.decBc3 x y off) := fun _ h => h

theorem decBc4 (x y : Coord) (off : Nat) : Statement (.decBc4 x y off) := fun _ h => h

theorem decBc5 (x y : Coord) (off : Nat) : Statement (.decBc5 x y off) := fun _ h => h

theorem decBc6hUf16 (x y : Coord) (off : Nat) : Statement (.decBc6hUf16 x y off) := fun _ h => h

theorem decBc6hSf16 (x y : Coord) (off : Nat) : Statement (.decBc6hSf16 x y off) := fun _ h => h

theorem decBc7 (x y : Coord) (off : Nat) : Statement (.decBc7 x y off) := fun _ h => h

theorem reservedOp7 (x y : Coord) (rsv : BitVec 8) (off : Nat) : Statement (.reservedOp7 x y rsv off) := fun _ h => h

theorem reservedOp8toF (low : BitVec 3) (x y : Coord) (rsv : BitVec 8) (off : Nat) : Statement (.reservedOp8toF low x y rsv off) := fun _ h => h

theorem bc6hMode1 (sg : Signedness) (x y : Coord) (f : Bc6hTwo) : Statement (.bc6hMode1 sg x y f) := by
  intro addrW _
  simp only [encode]
  exact block_fits _ (packRows_lt _ _ _ _ (by decide))

theorem bc6hMode2 (sg : Signedness) (x y : Coord) (f : Bc6hTwo) : Statement (.bc6hMode2 sg x y f) := by
  intro addrW _
  simp only [encode]
  exact block_fits _ (packRows_lt _ _ _ _ (by decide))

theorem bc6hMode3 (sg : Signedness) (x y : Coord) (f : Bc6hTwo) : Statement (.bc6hMode3 sg x y f) := by
  intro addrW _
  simp only [encode]
  exact block_fits _ (packRows_lt _ _ _ _ (by decide))

theorem bc6hMode4 (sg : Signedness) (x y : Coord) (f : Bc6hTwo) : Statement (.bc6hMode4 sg x y f) := by
  intro addrW _
  simp only [encode]
  exact block_fits _ (packRows_lt _ _ _ _ (by decide))

theorem bc6hMode5 (sg : Signedness) (x y : Coord) (f : Bc6hTwo) : Statement (.bc6hMode5 sg x y f) := by
  intro addrW _
  simp only [encode]
  exact block_fits _ (packRows_lt _ _ _ _ (by decide))

theorem bc6hMode6 (sg : Signedness) (x y : Coord) (f : Bc6hTwo) : Statement (.bc6hMode6 sg x y f) := by
  intro addrW _
  simp only [encode]
  exact block_fits _ (packRows_lt _ _ _ _ (by decide))

theorem bc6hMode7 (sg : Signedness) (x y : Coord) (f : Bc6hTwo) : Statement (.bc6hMode7 sg x y f) := by
  intro addrW _
  simp only [encode]
  exact block_fits _ (packRows_lt _ _ _ _ (by decide))

theorem bc6hMode8 (sg : Signedness) (x y : Coord) (f : Bc6hTwo) : Statement (.bc6hMode8 sg x y f) := by
  intro addrW _
  simp only [encode]
  exact block_fits _ (packRows_lt _ _ _ _ (by decide))

theorem bc6hMode9 (sg : Signedness) (x y : Coord) (f : Bc6hTwo) : Statement (.bc6hMode9 sg x y f) := by
  intro addrW _
  simp only [encode]
  exact block_fits _ (packRows_lt _ _ _ _ (by decide))

theorem bc6hMode10 (sg : Signedness) (x y : Coord) (f : Bc6hTwo) : Statement (.bc6hMode10 sg x y f) := by
  intro addrW _
  simp only [encode]
  exact block_fits _ (packRows_lt _ _ _ _ (by decide))

theorem bc6hMode11 (sg : Signedness) (x y : Coord) (f : Bc6hOne) : Statement (.bc6hMode11 sg x y f) := by
  intro addrW _
  simp only [encode]
  exact block_fits _ (packRows_lt _ _ _ _ (by decide))

theorem bc6hMode12 (sg : Signedness) (x y : Coord) (f : Bc6hOne) : Statement (.bc6hMode12 sg x y f) := by
  intro addrW _
  simp only [encode]
  exact block_fits _ (packRows_lt _ _ _ _ (by decide))

theorem bc6hMode13 (sg : Signedness) (x y : Coord) (f : Bc6hOne) : Statement (.bc6hMode13 sg x y f) := by
  intro addrW _
  simp only [encode]
  exact block_fits _ (packRows_lt _ _ _ _ (by decide))

theorem bc6hMode14 (sg : Signedness) (x y : Coord) (f : Bc6hOne) : Statement (.bc6hMode14 sg x y f) := by
  intro addrW _
  simp only [encode]
  exact block_fits _ (packRows_lt _ _ _ _ (by decide))

theorem bc6hReserved13 (sg : Signedness) (x y : Coord) (rest : Nat) : Statement (.bc6hReserved13 sg x y rest) := by
  intro addrW _
  simp only [encode]
  exact block_fits _ (pack_two_lt _ _ _ _ rfl)

theorem bc6hReserved17 (sg : Signedness) (x y : Coord) (rest : Nat) : Statement (.bc6hReserved17 sg x y rest) := by
  intro addrW _
  simp only [encode]
  exact block_fits _ (pack_two_lt _ _ _ _ rfl)

theorem bc6hReserved1B (sg : Signedness) (x y : Coord) (rest : Nat) : Statement (.bc6hReserved1B sg x y rest) := by
  intro addrW _
  simp only [encode]
  exact block_fits _ (pack_two_lt _ _ _ _ rfl)

theorem bc6hReserved1F (sg : Signedness) (x y : Coord) (rest : Nat) : Statement (.bc6hReserved1F sg x y rest) := by
  intro addrW _
  simp only [encode]
  exact block_fits _ (pack_two_lt _ _ _ _ rfl)

theorem bc7Mode0 (x y : Coord) (f : Bc7Fields) : Statement (.bc7Mode0 x y f) := by
  intro addrW h
  simp only [encode]
  exact block_fits _ (bc7_toBlock_lt h bc7Width_eq.1)

theorem bc7Mode1 (x y : Coord) (f : Bc7Fields) : Statement (.bc7Mode1 x y f) := by
  intro addrW h
  simp only [encode]
  exact block_fits _ (bc7_toBlock_lt h bc7Width_eq.2.1)

theorem bc7Mode2 (x y : Coord) (f : Bc7Fields) : Statement (.bc7Mode2 x y f) := by
  intro addrW h
  simp only [encode]
  exact block_fits _ (bc7_toBlock_lt h bc7Width_eq.2.2.1)

theorem bc7Mode3 (x y : Coord) (f : Bc7Fields) : Statement (.bc7Mode3 x y f) := by
  intro addrW h
  simp only [encode]
  exact block_fits _ (bc7_toBlock_lt h bc7Width_eq.2.2.2.1)

theorem bc7Mode4 (x y : Coord) (f : Bc7Fields) : Statement (.bc7Mode4 x y f) := by
  intro addrW h
  simp only [encode]
  exact block_fits _ (bc7_toBlock_lt h bc7Width_eq.2.2.2.2.1)

theorem bc7Mode5 (x y : Coord) (f : Bc7Fields) : Statement (.bc7Mode5 x y f) := by
  intro addrW h
  simp only [encode]
  exact block_fits _ (bc7_toBlock_lt h bc7Width_eq.2.2.2.2.2.1)

theorem bc7Mode6 (x y : Coord) (f : Bc7Fields) : Statement (.bc7Mode6 x y f) := by
  intro addrW h
  simp only [encode]
  exact block_fits _ (bc7_toBlock_lt h bc7Width_eq.2.2.2.2.2.2.1)

theorem bc7Mode7 (x y : Coord) (f : Bc7Fields) : Statement (.bc7Mode7 x y f) := by
  intro addrW h
  simp only [encode]
  exact block_fits _ (bc7_toBlock_lt h bc7Width_eq.2.2.2.2.2.2.2)

theorem bc7ReservedMode (x y : Coord) (rest : Nat) : Statement (.bc7ReservedMode x y rest) := by
  intro addrW _
  simp only [encode]
  exact block_fits _ (pack_two_lt _ _ _ _ rfl)

end Sys2Proof.Laws.EncodesInWidth
end

