-- ==== Sys2Proof/Laws/Programs.lean ====
section
/-! SUPPORT. Matching outcomes with requests, and the addresses of the buffer. -/

namespace Sys2Proof.Machine

/-- What is taken is an outcome of that request, and the others are the rest. -/
theorem takeOutcome_some {q : Request} {ds others : List Delivered} {o : ReqOutcome}
    (h : takeOutcome q ds = some (o, others)) : ds.Perm (⟨q, o⟩ :: others) := by
  induction ds generalizing others with
  | nil => simp [takeOutcome] at h
  | cons d rest ih =>
    simp only [takeOutcome] at h
    split at h
    · rename_i hd
      obtain ⟨rfl, rfl⟩ : d.outcome = o ∧ rest = others := by simpa using h
      subst hd
      exact .refl _
    · split at h
      · rename_i o' others' ht
        obtain ⟨rfl, rfl⟩ : o' = o ∧ d :: others' = others := by simpa using h
        exact ((ih ht).cons d).trans (.swap _ _ _)
      · cases h

/-- None is taken just if no outcome has that tag. -/
theorem takeOutcome_none {q : Request} {ds : List Delivered} : takeOutcome q ds = none ↔ ∀ d ∈ ds, d.req ≠ q := by
  induction ds with
  | nil => simp [takeOutcome]
  | cons d rest ih =>
    simp only [takeOutcome, List.forall_mem_cons, ← ih]
    split
    · simp_all
    · split <;> simp_all

/-- The end state pairs each request with an outcome of its own among those delivered. -/
theorem outcomesInOrder_some {reqs : List Request} {ds : List Delivered} {os : List ReqOutcome}
    (h : outcomesInOrder reqs ds = some os) :
    os.length = reqs.length ∧ ∃ others, ds.Perm (List.zipWith Delivered.mk reqs os ++ others) := by
  induction reqs generalizing ds os with
  | nil =>
    obtain rfl : os = [] := by simpa [outcomesInOrder, eq_comm] using h
    exact ⟨rfl, ds, .refl _⟩
  | cons q reqs ih =>
    simp only [outcomesInOrder] at h
    split at h
    · rename_i o others ht
      split at h
      · rename_i os' hos
        obtain rfl : o :: os' = os := by simpa using h
        obtain ⟨hl, rest, hp⟩ := ih hos
        exact ⟨by simp [hl], rest, (takeOutcome_some ht).trans (hp.cons _)⟩
      · cases h
    · cases h

/-- Where every outcome delivered is `f` of its request and each request has one, the end state is `f` of the requests in order: the
order of delivery does not matter, and outcomes of other requests neither. -/
theorem outcomesInOrder_of_function {f : Request → ReqOutcome} {reqs : List Request} {ds : List Delivered}
    (hf : ∀ d ∈ ds, d.outcome = f d.req) (hs : reqs.Subperm (ds.map (·.req))) :
    outcomesInOrder reqs ds = some (reqs.map f) := by
  induction reqs generalizing ds with
  | nil => rfl
  | cons q reqs ih =>
    cases ht : takeOutcome q ds with
    | none =>
      obtain ⟨d, hd, rfl⟩ := List.mem_map.mp (hs.subset List.mem_cons_self)
      exact absurd rfl (takeOutcome_none.mp ht d hd)
    | some r =>
      obtain ⟨o, others⟩ := r
      have hp := takeOutcome_some ht
      have ho : o = f q := hf ⟨q, o⟩ (hp.mem_iff.mpr List.mem_cons_self)
      have hrest : outcomesInOrder reqs others = some (reqs.map f) :=
        ih (fun d hd => hf d (hp.mem_iff.mpr (List.mem_cons_of_mem _ hd)))
          ((List.subperm_cons q).mp (hs.trans (hp.map _).subperm))
      simp [outcomesInOrder, ht, hrest, ho]

/-- An address that exists has `ADDR_W` bits (20_memory R40). -/
theorem readByte_addr_lt {s : State} {addr : Nat} {b : Byte} (hs : s.Inv = true) (h : s.readByte addr = some b) :
    addr < 2 ^ s.cfg.addrW := by
  obtain ⟨len, hl, ha⟩ := (readByte_isSome s addr).mp (by simp [h])
  simp only [State.Inv, hl, Bool.and_eq_true, decide_eq_true_eq] at hs
  omega

end Sys2Proof.Machine
end

