-- ==== Sys2Proof/Tests/Slice0.lean ====
section
/-! SUPPORT. The model's own tests: ill-formed terms, words written out from the spec's encodings, one step each from the spec's
vectors, and for every statement with hypotheses a witness that meets them, clause by clause. -/

open Sys2Proof Sys2Proof.Machine

namespace Sys2Proof.Tests

/- The kernel checks these theorems one after another, not each in a thread of its own. -/
set_option Elab.async false

/-- An array with one unit that holds the request, and a launch whose buffer is the `size` bytes of `blk`. -/
def unitState (cmd : Word16) (off blk size : Nat) : State :=
  { State.reset with units := [⟨some ⟨cmd, off⟩⟩], launch := some size, mem := Memory.ofBytes 0 (bytesOf blk size) }

/-- The outcome a step delivers, from a state in which none was delivered before. -/
def stepOutcome (s : State) : Option ReqOutcome :=
  match step s with
  | .next t => t.outcomes.head?.map (·.outcome)
  | .fault _ => none
  | .refused _ => none

/-! ## Well-formed terms, and an ill-formed one for each check -/

theorem test_wellFormed_request :
    (Instr.decBc1 0 0 255).wellFormed 8 = true ∧ (Instr.decBc1 0 0 256).wellFormed 8 = false ∧
    (Instr.decBc3 0 0 256).wellFormed 8 = false ∧ (Instr.decBc4 0 0 256).wellFormed 8 = false ∧
    (Instr.decBc5 0 0 256).wellFormed 8 = false ∧ (Instr.decBc6hUf16 0 0 256).wellFormed 8 = false ∧
    (Instr.decBc6hSf16 0 0 256).wellFormed 8 = false ∧ (Instr.decBc7 0 0 256).wellFormed 8 = false ∧
    (Instr.reservedOp7 0 0 0 256).wellFormed 8 = false ∧ (Instr.reservedOp8toF 0 0 0 0 256).wellFormed 8 = false := by
  decide

theorem test_wellFormed_bc6h_two :
    Bc6hTwo.fits (bc6hDesc .m3) ⟨⟨2047, 0, 0⟩, ⟨31, 15, 15⟩, ⟨0, 0, 0⟩, ⟨0, 0, 0⟩, 31, 2 ^ 46 - 1⟩ = true ∧
    Bc6hTwo.fits (bc6hDesc .m3) ⟨⟨2048, 0, 0⟩, ⟨0, 0, 0⟩, ⟨0, 0, 0⟩, ⟨0, 0, 0⟩, 0, 0⟩ = false ∧
    Bc6hTwo.fits (bc6hDesc .m3) ⟨⟨0, 0, 0⟩, ⟨0, 16, 0⟩, ⟨0, 0, 0⟩, ⟨0, 0, 0⟩, 0, 0⟩ = false ∧
    Bc6hTwo.fits (bc6hDesc .m3) ⟨⟨0, 0, 0⟩, ⟨0, 0, 0⟩, ⟨32, 0, 0⟩, ⟨0, 0, 0⟩, 0, 0⟩ = false ∧
    Bc6hTwo.fits (bc6hDesc .m3) ⟨⟨0, 0, 0⟩, ⟨0, 0, 0⟩, ⟨0, 0, 0⟩, ⟨0, 0, 16⟩, 0, 0⟩ = false ∧
    Bc6hTwo.fits (bc6hDesc .m3) ⟨⟨0, 0, 0⟩, ⟨0, 0, 0⟩, ⟨0, 0, 0⟩, ⟨0, 0, 0⟩, 32, 0⟩ = false ∧
    Bc6hTwo.fits (bc6hDesc .m3) ⟨⟨0, 0, 0⟩, ⟨0, 0, 0⟩, ⟨0, 0, 0⟩, ⟨0, 0, 0⟩, 0, 2 ^ 46⟩ = false := by decide

theorem test_wellFormed_bc6h_one :
    Bc6hOne.fits (bc6hDesc .m13) ⟨⟨4095, 0, 0⟩, ⟨255, 0, 0⟩, 2 ^ 63 - 1⟩ = true ∧
    Bc6hOne.fits (bc6hDesc .m13) ⟨⟨4096, 0, 0⟩, ⟨0, 0, 0⟩, 0⟩ = false ∧
    Bc6hOne.fits (bc6hDesc .m13) ⟨⟨0, 0, 0⟩, ⟨0, 0, 256⟩, 0⟩ = false ∧
    Bc6hOne.fits (bc6hDesc .m13) ⟨⟨0, 0, 0⟩, ⟨0, 0, 0⟩, 2 ^ 63⟩ = false := by decide

theorem test_wellFormed_bc7 :
    Bc7Fields.fits (bc7Desc .m4) ⟨0, 3, 1, [31, 0], [0, 0], [0, 0], [63, 0], [], 2 ^ 31 - 1, 2 ^ 47 - 1⟩ = true ∧
    Bc7Fields.fits (bc7Desc .m4) ⟨1, 0, 0, [0, 0], [0, 0], [0, 0], [0, 0], [], 0, 0⟩ = false ∧
    Bc7Fields.fits (bc7Desc .m4) ⟨0, 4, 0, [0, 0], [0, 0], [0, 0], [0, 0], [], 0, 0⟩ = false ∧
    Bc7Fields.fits (bc7Desc .m4) ⟨0, 0, 2, [0, 0], [0, 0], [0, 0], [0, 0], [], 0, 0⟩ = false ∧
    Bc7Fields.fits (bc7Desc .m4) ⟨0, 0, 0, [0], [0, 0], [0, 0], [0, 0], [], 0, 0⟩ = false ∧
    Bc7Fields.fits (bc7Desc .m4) ⟨0, 0, 0, [0, 0], [0, 32], [0, 0], [0, 0], [], 0, 0⟩ = false ∧
    Bc7Fields.fits (bc7Desc .m4) ⟨0, 0, 0, [0, 0], [0, 0], [32, 0], [0, 0], [], 0, 0⟩ = false ∧
    Bc7Fields.fits (bc7Desc .m4) ⟨0, 0, 0, [0, 0], [0, 0], [0, 0], [0, 64], [], 0, 0⟩ = false ∧
    Bc7Fields.fits (bc7Desc .m4) ⟨0, 0, 0, [0, 0], [0, 0], [0, 0], [0, 0], [0], 0, 0⟩ = false ∧
    Bc7Fields.fits (bc7Desc .m4) ⟨0, 0, 0, [0, 0], [0, 0], [0, 0], [0, 0], [], 2 ^ 31, 0⟩ = false ∧
    Bc7Fields.fits (bc7Desc .m4) ⟨0, 0, 0, [0, 0], [0, 0], [0, 0], [0, 0], [], 0, 2 ^ 47⟩ = false := by decide

theorem test_wellFormed_reserved_blocks :
    (Instr.bc6hReserved13 .uf16 0 0 (2 ^ 123 - 1)).wellFormed 8 = true ∧
    (Instr.bc6hReserved13 .uf16 0 0 (2 ^ 123)).wellFormed 8 = false ∧
    (Instr.bc6hReserved17 .uf16 0 0 (2 ^ 123)).wellFormed 8 = false ∧
    (Instr.bc6hReserved1B .uf16 0 0 (2 ^ 123)).wellFormed 8 = false ∧
    (Instr.bc6hReserved1F .uf16 0 0 (2 ^ 123)).wellFormed 8 = false ∧
    (Instr.bc7ReservedMode 0 0 (2 ^ 120)).wellFormed 8 = false := by decide

/-! ## Words and blocks written out from the spec's encodings -/

/-- 30_encoding R60, R61, R71: `cmd` is rsv, y, x, op from the top. -/
theorem test_decode_requests :
    decodeRequest ⟨0b00000000_11_10_0000, 0x10⟩ = .ok (.decBc1 2 3 0x10) ∧
    decodeRequest ⟨0b00000000_00_01_0001, 5⟩ = .ok (.decBc3 1 0 5) ∧
    decodeRequest ⟨0b00000000_01_00_0010, 5⟩ = .ok (.decBc4 0 1 5) ∧
    decodeRequest ⟨0b00000000_10_11_0011, 5⟩ = .ok (.decBc5 3 2 5) ∧
    decodeRequest ⟨0b00000000_11_00_0100, 5⟩ = .ok (.decBc6hUf16 0 3 5) ∧
    decodeRequest ⟨0b00000000_00_11_0101, 5⟩ = .ok (.decBc6hSf16 3 0 5) ∧
    decodeRequest ⟨0b00000000_01_10_0110, 5⟩ = .ok (.decBc7 2 1 5) ∧
    decodeRequest ⟨0b10000001_01_10_0111, 5⟩ = .ok (.reservedOp7 2 1 0x81 5) ∧
    decodeRequest ⟨0b00000000_01_10_1000, 5⟩ = .ok (.reservedOp8toF 0 2 1 0 5) ∧
    decodeRequest ⟨0b11111111_11_11_1111, 5⟩ = .ok (.reservedOp8toF 7 3 3 0xFF 5) ∧
    decodeRequest ⟨0b10000000_00_00_0000, 5⟩ = .error .reservedField ∧
    decodeRequest ⟨0b00000001_00_00_0110, 5⟩ = .error .reservedField := by decide

/-- 44_bc6h R200, 45_bc7 R260: the reserved mode codes. -/
theorem test_decode_reserved_blocks :
    decodeBc6h .uf16 0 0 0b10_10011 = .bc6hReserved13 .uf16 0 0 0b10 ∧
    decodeBc6h .sf16 0 0 0b10_10111 = .bc6hReserved17 .sf16 0 0 0b10 ∧
    decodeBc6h .uf16 0 0 0b10_11011 = .bc6hReserved1B .uf16 0 0 0b10 ∧
    decodeBc6h .uf16 0 0 0b10_11111 = .bc6hReserved1F .uf16 0 0 0b10 ∧
    decodeBc7 0 0 0b101_00000000 = .bc7ReservedMode 0 0 0b101 := by decide

/-- Log 2: which code a table word is. -/
theorem test_table_words :
    decodeTableWord 8 0x06 = some (.decBc7 0 0 0) ∧ decodeTableWord 8 0x08 = some (.reservedOp8toF 0 0 0 0 0) ∧
    decodeTableWord 16 0x00E0 = some (.decBc1 2 3 0) ∧ decodeTableWord 8 0x13 = some (.bc6hReserved13 .uf16 0 0 0) ∧
    decodeTableWord 8 0x40 = some (.bc7Mode6 0 0 ⟨0, 0, 0, [0, 0], [0, 0], [0, 0], [0, 0], [0, 0], 0, 0⟩) := by decide

/-- A block offered under an op without a block-level opcode is rejected by name. -/
theorem test_decode_noBlockLevel : decodeCode (.block (mkCmd 0x0 0 0 0) 3) = .error .noBlockLevel := by rfl

/-- 95_test_vectors 2.5.1, mode 1. -/
theorem test_decode_bc6h_mode1 :
    decodeBc6h .uf16 1 2 0x32B0E3A158859C4A31CF4F632EA40F14 =
    .bc6hMode1 .uf16 1 2 ⟨⟨0x78, 0x148, 0x197⟩, ⟨0xC, 0x1A, 0x3⟩, ⟨0x5, 0x17, 0x1⟩, ⟨0x18, 0x19, 0x1F⟩, 12, 0xCAC38E85621⟩ := by decide

/-- 95_test_vectors 2.5.1, mode 2. -/
theorem test_decode_bc6h_mode2 :
    decodeBc6h .uf16 1 2 0xC9C4CE67890C4825C35FA0E5DFA3CD61 =
    .bc6hMode2 .uf16 1 2 ⟨⟨0x6B, 0x47, 0x6F⟩, ⟨0x1C, 0x3D, 0x6⟩, ⟨0x12, 0x10, 0x1E⟩, ⟨0x10, 0xB, 0x1C⟩, 2, 0x32713399E243⟩ := by decide

/-- 95_test_vectors 2.5.1, mode 3. -/
theorem test_decode_bc6h_mode3 :
    decodeBc6h .uf16 1 2 0x8662E41D0C58BEDDF903D9BAB792FEA2 =
    .bc6hMode3 .uf16 1 2 ⟨⟨0x7F5, 0x725, 0x55B⟩, ⟨0x17, 0xE, 0x2⟩, ⟨0xE, 0xC, 0xF⟩, ⟨0x1D, 0x0, 0xE⟩, 5, 0x2198B9074316⟩ := by decide

/-- 95_test_vectors 2.5.1, mode 4. -/
theorem test_decode_bc6h_mode4 :
    decodeBc6h .uf16 1 2 0x18839C44D4A4234C03BC739A32BB5786 =
    .bc6hMode4 .uf16 1 2 ⟨⟨0x6BC, 0x576, 0x119⟩, ⟨0x3, 0x3, 0x7⟩, ⟨0x6, 0x9, 0x0⟩, ⟨0x6, 0x17, 0x4⟩, 1, 0x620E7113529⟩ := by decide

/-- 95_test_vectors 2.5.1, mode 5. -/
theorem test_decode_bc6h_mode5 :
    decodeBc6h .uf16 1 2 0x85CF985C3E8844BBBB9ABEE25CDC774A =
    .bc6hMode5 .uf16 1 2 ⟨⟨0x7BA, 0x5B8, 0x52E⟩, ⟨0xC, 0x5, 0x17⟩, ⟨0xD, 0xF, 0xD⟩, ⟨0x9, 0x3, 0x2⟩, 2, 0x2173E6170FA2⟩ := by decide

/-- 95_test_vectors 2.5.1, mode 6. -/
theorem test_decode_bc6h_mode6 :
    decodeBc6h .uf16 1 2 0xDC62640410432E5D2981A819AD062C4E =
    .bc6hMode6 .uf16 1 2 ⟨⟨0x162, 0xC, 0xD6⟩, ⟨0x3, 0xD, 0x13⟩, ⟨0xE, 0x14, 0x9⟩, ⟨0x1C, 0x0, 0x4⟩, 25, 0x371899010410⟩ := by decide

/-- 95_test_vectors 2.5.1, mode 7. -/
theorem test_decode_bc6h_mode7 :
    decodeBc6h .uf16 1 2 0x0CDA1C9A02376B4E591878B1C8398212 =
    .bc6hMode7 .uf16 1 2 ⟨⟨0x10, 0x73, 0xE4⟩, ⟨0x16, 0x3, 0x12⟩, ⟨0x27, 0xC, 0x2⟩, ⟨0x16, 0x3, 0x2⟩, 27, 0x3368726808D⟩ := by decide

/-- 95_test_vectors 2.5.1, mode 8. -/
theorem test_decode_bc6h_mode8 :
    decodeBc6h .uf16 1 2 0x2DD689B99487F34A1A625CAA0A0CDC76 =
    .bc6hMode8 .uf16 1 2 ⟨⟨0xE3, 0x19, 0x5⟩, ⟨0x15, 0x12, 0x14⟩, ⟨0x5, 0xE, 0x10⟩, ⟨0x6, 0x2C, 0xE⟩, 31, 0xB75A26E6521⟩ := by decide

/-- 95_test_vectors 2.5.1, mode 9. -/
theorem test_decode_bc6h_mode9 :
    decodeBc6h .uf16 1 2 0x467D2A87A571923E85E95E05187A2B9A =
    .bc6hMode9 .uf16 1 2 ⟨⟨0x5C, 0xF4, 0x8C⟩, ⟨0x0, 0xA, 0xB⟩, ⟨0x1F, 0xF, 0x4⟩, ⟨0x4, 0xD, 0x1A⟩, 12, 0x119F4AA1E95C⟩ := by decide

/-- 95_test_vectors 2.5.1, mode 10. -/
theorem test_decode_bc6h_mode10 :
    decodeBc6h .uf16 1 2 0x0039849406FD3BE9A6BAA452B55A2BFE =
    .bc6hMode10 .uf16 1 2 ⟨⟨0x1F, 0x34, 0x1A⟩, ⟨0xA, 0x15, 0xD⟩, ⟨0x34, 0x12, 0x2D⟩, ⟨0x37, 0x37, 0x22⟩, 9, 0xE612501BF⟩ := by decide

/-- 95_test_vectors 2.5.1, mode 11. -/
theorem test_decode_bc6h_mode11 :
    decodeBc6h .uf16 1 2 0x0FBD26B3C9E358EDC4EA103AD61FDDE3 =
    .bc6hMode11 .uf16 1 2 ⟨⟨0x2EF, 0x3F, 0x16B⟩, ⟨0x207, 0x350, 0x389⟩, 0x7DE9359E4F1AC76⟩ := by decide

/-- 95_test_vectors 2.5.1, mode 12. -/
theorem test_decode_bc6h_mode12 :
    decodeBc6h .uf16 1 2 0xBFC7F3EC0DE46D8A0F33B516A928AD47 =
    .bc6hMode12 .uf16 1 2 ⟨⟨0x56A, 0x251, 0x354⟩, ⟨0xA2, 0x19D, 0x1E⟩, 0x5FE3F9F606F236C5⟩ := by decide

/-- 95_test_vectors 2.5.1, mode 13. -/
theorem test_decode_bc6h_mode13 :
    decodeBc6h .uf16 1 2 0xABC59862AE2A087D8E41BC109AF077AB =
    .bc6hMode13 .uf16 1 2 ⟨⟨0xFBD, 0x5E0, 0xC4D⟩, ⟨0x82, 0xD, 0x1C⟩, 0x55E2CC315715043E⟩ := by decide

/-- 95_test_vectors 2.5.1, mode 14. -/
theorem test_decode_bc6h_mode14 :
    decodeBc6h .uf16 1 2 0x57AB474603FD8FE4DE8220385F07DD6F =
    .bc6hMode14 .uf16 1 2 ⟨⟨0x2EB, 0x820F, 0xD82F⟩, ⟨0x7, 0x1, 0xD⟩, 0x2BD5A3A301FEC7F2⟩ := by decide

/-- 95_test_vectors 2.6.1, mode 0. -/
theorem test_decode_bc7_mode0 :
    decodeBc7 1 2 0x088601F350DC43C159041A89ECD6CA3D =
    .bc7Mode0 1 2 ⟨14, 0, 0, [1, 5, 6, 11, 6, 6], [15, 4, 4, 13, 0, 2], [8, 12, 10, 0, 14, 1], [], [0, 1, 0, 0, 0, 1], 0x110C03E6A1B, 0x0⟩ := by decide

/-- 95_test_vectors 2.6.1, mode 1. -/
theorem test_decode_bc7_mode1 :
    decodeBc7 1 2 0x7BFC4DD6D2FD2931CBDFB54622016E0A =
    .bc7Mode1 1 2 ⟨2, 0, 0, [46, 5, 32, 8], [6, 21, 59, 55], [11, 7, 19, 10], [], [1, 0], 0x1EFF1375B4BF, 0x0⟩ := by decide

/-- 95_test_vectors 2.6.1, mode 2. -/
theorem test_decode_bc7_mode2 :
    decodeBc7 1 2 0x1DD1D13E7D721E0B0D660382C38CA804 =
    .bc7Mode2 1 2 ⟨0, 0, 0, [20, 18, 17, 3, 22, 0], [7, 0, 19, 21, 1, 11], [16, 7, 4, 23, 30, 25], [], [], 0x3BA3A27, 0x0⟩ := by decide

/-- 95_test_vectors 2.6.1, mode 3. -/
theorem test_decode_bc7_mode3 :
    decodeBc7 1 2 0x1D071D71D491553B14A3322A56CCE0E8 =
    .bc7Mode3 1 2 ⟨14, 0, 0, [56, 102, 86, 84], [72, 25, 74, 98], [78, 42, 17, 41], [], [1, 1, 1, 0], 0x741C75C, 0x0⟩ := by decide

/-- 95_test_vectors 2.6.1, mode 4. -/
theorem test_decode_bc7_mode4 :
    decodeBc7 1 2 0xE29F0C74E82C221C713F2E0494195710 =
    .bc7Mode4 1 2 ⟨0, 0, 0, [23, 10], [6, 8], [9, 2], [56, 50], [], 0x8871C4F, 0x714F863A7416⟩ := by decide

/-- 95_test_vectors 2.6.1, mode 5. -/
theorem test_decode_bc7_mode5 :
    decodeBc7 1 2 0xE33AC8B1B83B0475E5ACC7CDC4FB03E0 =
    .bc7Mode5 1 2 ⟨0, 3, 0, [3, 118], [19, 110], [124, 24], [107, 121], [], 0x6E0EC11D, 0x719D6458⟩ := by decide

/-- 95_test_vectors 2.6.1, mode 6. -/
theorem test_decode_bc7_mode6 :
    decodeBc7 1 2 0xD54C9E09BAC626E6F1A4D86BF2447240 =
    .bc7Mode6 1 2 ⟨0, 0, 0, [100, 17], [18, 63], [13, 54], [82, 113], [1, 0], 0x6AA64F04DD631373, 0x0⟩ := by decide

/-- 95_test_vectors 2.6.1, mode 7. -/
theorem test_decode_bc7_mode7 :
    decodeBc7 1 2 0x135496E8EE0F2AB31DA322689B591980 =
    .bc7Mode7 1 2 ⟨25, 0, 0, [4, 11, 27, 4], [26, 4, 18, 17], [22, 3, 19, 21], [10, 30, 0, 23], [1, 1, 0, 0], 0x4D525BA, 0x0⟩ := by decide

/-! ## One step each -/

/-- 95_test_vectors 2.7 and 60_exceptions R306: reserved op before reserved field before the block fetch. -/
theorem test_step_reserved_op7 : stepOutcome (unitState 0x0107 100 0 8) = some (.refused .reservedOp) := by decide

theorem test_step_reserved_op8toF : stepOutcome (unitState 0x000F 0 0 8) = some (.refused .reservedOp) := by decide

theorem test_step_reserved_field : stepOutcome (unitState 0x0100 100 0 8) = some (.refused .reservedField) := by decide

/-- 95_test_vectors 2.2, corner cases: one byte past the end. -/
theorem test_step_fault : stepOutcome (unitState 0x0000 2 0xE4001FF80000 9) = some (.fault ⟨1, 0x0000, 2, 8⟩) := by decide

theorem test_step_fault_at_16_bytes : stepOutcome (unitState 0x0016 1 0 16) = some (.fault ⟨1, 0x0016, 1, 16⟩) := by decide

/-- 95_test_vectors 2.5.1, mode 1, DEC.BC6H.UF16 0, 3, 3. -/
theorem test_step_bc6h_mode1_unsigned :
    stepOutcome (unitState 0x00F4 0 0x32B0E3A158859C4A31CF4F632EA40F14 16) =
      some (.response ⟨0x39E64000, 0x3CD60000, 0x3E2EE000, 0x3F800000⟩) := by decide +kernel

/-- 95_test_vectors 2.5.1, mode 1, DEC.BC6H.SF16 0, 0, 0. -/
theorem test_step_bc6h_mode1_signed :
    stepOutcome (unitState 0x0005 0 0x32B0E3A158859C4A31CF4F632EA40F14 16) =
      some (.response ⟨0x3BB2E000, 0x41EB4000, 0x44596000, 0x3F800000⟩) := by decide +kernel

/-- 95_test_vectors 2.5.1, mode 2, DEC.BC6H.UF16 0, 3, 3. -/
theorem test_step_bc6h_mode2_unsigned :
    stepOutcome (unitState 0x00F4 0 0xC9C4CE67890C4825C35FA0E5DFA3CD61 16) =
      some (.response ⟨0x47184000, 0x42570000, 0x39884000, 0x3F800000⟩) := by decide +kernel

/-- 95_test_vectors 2.5.1, mode 2, DEC.BC6H.SF16 0, 0, 0. -/
theorem test_step_bc6h_mode2_signed :
    stepOutcome (unitState 0x0005 0 0xC9C4CE67890C4825C35FA0E5DFA3CD61 16) =
      some (.response ⟨0xBA3E6000, 0xC63B6000, 0xBBA00000, 0x3F800000⟩) := by decide +kernel

/-- 95_test_vectors 2.5.1, mode 3, DEC.BC6H.UF16 0, 3, 3. -/
theorem test_step_bc6h_mode3_unsigned :
    stepOutcome (unitState 0x00F4 0 0x8662E41D0C58BEDDF903D9BAB792FEA2 16) =
      some (.response ⟨0x3C598000, 0x45D30000, 0x425EC000, 0x3F800000⟩) := by decide +kernel

/-- 95_test_vectors 2.5.1, mode 3, DEC.BC6H.SF16 0, 0, 0. -/
theorem test_step_bc6h_mode3_signed :
    stepOutcome (unitState 0x0005 0 0x8662E41D0C58BEDDF903D9BAB792FEA2 16) =
      some (.response ⟨0xB7D90000, 0xBB54A000, 0xC23F2000, 0x3F800000⟩) := by decide +kernel

/-- 95_test_vectors 2.5.1, mode 4, DEC.BC6H.UF16 0, 3, 3. -/
theorem test_step_bc6h_mode4_unsigned :
    stepOutcome (unitState 0x00F4 0 0x18839C44D4A4234C03BC739A32BB5786 16) =
      some (.response ⟨0x4518C000, 0x42A70000, 0x3A216000, 0x3F800000⟩) := by decide +kernel

/-- 95_test_vectors 2.5.1, mode 4, DEC.BC6H.SF16 0, 0, 0. -/
theorem test_step_bc6h_mode4_signed :
    stepOutcome (unitState 0x0005 0 0x18839C44D4A4234C03BC739A32BB5786 16) =
      some (.response ⟨0xBCE7A000, 0xC1D6E000, 0x3C46A000, 0x3F800000⟩) := by decide +kernel

/-- 95_test_vectors 2.5.1, mode 5, DEC.BC6H.UF16 0, 3, 3. -/
theorem test_step_bc6h_mode5_unsigned :
    stepOutcome (unitState 0x00F4 0 0x85CF985C3E8844BBBB9ABEE25CDC774A 16) =
      some (.response ⟨0x46F14000, 0x4315A000, 0x421D4000, 0x3F800000⟩) := by decide +kernel

/-- 95_test_vectors 2.5.1, mode 5, DEC.BC6H.SF16 0, 0, 0. -/
theorem test_step_bc6h_mode5_signed :
    stepOutcome (unitState 0x0005 0 0x85CF985C3E8844BBBB9ABEE25CDC774A 16) =
      some (.response ⟨0xB9158000, 0xC0D36000, 0xC2F96000, 0x3F800000⟩) := by decide +kernel

/-- 95_test_vectors 2.5.1, mode 6, DEC.BC6H.UF16 0, 3, 3. -/
theorem test_step_bc6h_mode6_unsigned :
    stepOutcome (unitState 0x00F4 0 0xDC62640410432E5D2981A819AD062C4E 16) =
      some (.response ⟨0x42CF4000, 0x38B76000, 0x3E27C000, 0x3F800000⟩) := by decide +kernel

/-- 95_test_vectors 2.5.1, mode 6, DEC.BC6H.SF16 0, 0, 0. -/
theorem test_step_bc6h_mode6_signed :
    stepOutcome (unitState 0x0005 0 0xDC62640410432E5D2981A819AD062C4E 16) =
      some (.response ⟨0xC198C000, 0x38C1C000, 0x44FCC000, 0x3F800000⟩) := by decide +kernel

/-- 95_test_vectors 2.5.1, mode 7, DEC.BC6H.UF16 0, 3, 3. -/
theorem test_step_bc6h_mode7_unsigned :
    stepOutcome (unitState 0x00F4 0 0x0CDA1C9A02376B4E591878B1C8398212 16) =
      some (.response ⟨0x38FFC000, 0x3EFE4000, 0x45D5C000, 0x3F800000⟩) := by decide +kernel

/-- 95_test_vectors 2.5.1, mode 7, DEC.BC6H.SF16 0, 0, 0. -/
theorem test_step_bc6h_mode7_signed :
    stepOutcome (unitState 0x0005 0 0x0CDA1C9A02376B4E591878B1C8398212 16) =
      some (.response ⟨0x3A5F6000, 0x46098000, 0xBBB08000, 0x3F800000⟩) := by decide +kernel

/-- 95_test_vectors 2.5.1, mode 8, DEC.BC6H.UF16 0, 3, 3. -/
theorem test_step_bc6h_mode8_unsigned :
    stepOutcome (unitState 0x00F4 0 0x2DD689B99487F34A1A625CAA0A0CDC76 16) =
      some (.response ⟨0x45AE4000, 0x39B26000, 0x3A690000, 0x3F800000⟩) := by decide +kernel

/-- 95_test_vectors 2.5.1, mode 8, DEC.BC6H.SF16 0, 0, 0. -/
theorem test_step_bc6h_mode8_signed :
    stepOutcome (unitState 0x0005 0 0x2DD689B99487F34A1A625CAA0A0CDC76 16) =
      some (.response ⟨0xBBC26000, 0x3B64E000, 0x38638000, 0x3F800000⟩) := by decide +kernel

/-- 95_test_vectors 2.5.1, mode 9, DEC.BC6H.UF16 0, 3, 3. -/
theorem test_step_bc6h_mode9_unsigned :
    stepOutcome (unitState 0x00F4 0 0x467D2A87A571923E85E95E05187A2B9A 16) =
      some (.response ⟨0x3D952000, 0x37C78000, 0x40EFA000, 0x3F800000⟩) := by decide +kernel

/-- 95_test_vectors 2.5.1, mode 9, DEC.BC6H.SF16 0, 0, 0. -/
theorem test_step_bc6h_mode9_signed :
    stepOutcome (unitState 0x0005 0 0x467D2A87A571923E85E95E05187A2B9A 16) =
      some (.response ⟨0x43338000, 0xB9838000, 0xC61B8000, 0x3F800000⟩) := by decide +kernel

/-- 95_test_vectors 2.5.1, mode 10, DEC.BC6H.UF16 0, 3, 3. -/
theorem test_step_bc6h_mode10_unsigned :
    stepOutcome (unitState 0x00F4 0 0x0039849406FD3BE9A6BAA452B55A2BFE 16) =
      some (.response ⟨0x44B70000, 0x3C7B0000, 0x43050000, 0x3F800000⟩) := by decide +kernel

/-- 95_test_vectors 2.5.1, mode 10, DEC.BC6H.SF16 0, 0, 0. -/
theorem test_step_bc6h_mode10_signed :
    stepOutcome (unitState 0x0005 0 0x0039849406FD3BE9A6BAA452B55A2BFE 16) =
      some (.response ⟨0x431B2000, 0x38E4A000, 0x422DE000, 0x3F800000⟩) := by decide +kernel

/-- 95_test_vectors 2.5.1, mode 11, DEC.BC6H.UF16 0, 3, 3. -/
theorem test_step_bc6h_mode11_unsigned :
    stepOutcome (unitState 0x00F4 0 0x0FBD26B3C9E358EDC4EA103AD61FDDE3 16) =
      some (.response ⟨0x43600000, 0x38F60000, 0x3D808000, 0x3F800000⟩) := by decide +kernel

/-- 95_test_vectors 2.5.1, mode 11, DEC.BC6H.SF16 0, 0, 0. -/
theorem test_step_bc6h_mode11_signed :
    stepOutcome (unitState 0x0005 0 0x0FBD26B3C9E358EDC4EA103AD61FDDE3 16) =
      some (.response ⟨0xC3220000, 0xB9078000, 0x3D106000, 0x3F800000⟩) := by decide +kernel

/-- 95_test_vectors 2.5.1, mode 12, DEC.BC6H.UF16 0, 3, 3. -/
theorem test_step_bc6h_mode12_unsigned :
    stepOutcome (unitState 0x00F4 0 0xBFC7F3EC0DE46D8A0F33B516A928AD47 16) =
      some (.response ⟨0x4364C000, 0x3BF10000, 0x3E9E6000, 0x3F800000⟩) := by decide +kernel

/-- 95_test_vectors 2.5.1, mode 12, DEC.BC6H.SF16 0, 0, 0. -/
theorem test_step_bc6h_mode12_signed :
    stepOutcome (unitState 0x0005 0 0xBFC7F3EC0DE46D8A0F33B516A928AD47 16) =
      some (.response ⟨0xC1392000, 0x407DE000, 0x450D8000, 0x3F800000⟩) := by decide +kernel

/-- 95_test_vectors 2.5.1, mode 13, DEC.BC6H.UF16 0, 3, 3. -/
theorem test_step_bc6h_mode13_unsigned :
    stepOutcome (unitState 0x00F4 0 0xABC59862AE2A087D8E41BC109AF077AB 16) =
      some (.response ⟨0x46ED8000, 0x3DB9E000, 0x43FD4000, 0x3F800000⟩) := by decide +kernel

/-- 95_test_vectors 2.5.1, mode 13, DEC.BC6H.SF16 0, 0, 0. -/
theorem test_step_bc6h_mode13_signed :
    stepOutcome (unitState 0x0005 0 0xABC59862AE2A087D8E41BC109AF077AB 16) =
      some (.response ⟨0xB8E5E000, 0x436D4000, 0xBF15A000, 0x3F800000⟩) := by decide +kernel

/-- 95_test_vectors 2.5.1, mode 14, DEC.BC6H.UF16 0, 3, 3. -/
theorem test_step_bc6h_mode14_unsigned :
    stepOutcome (unitState 0x00F4 0 0x57AB474603FD8FE4DE8220385F07DD6F 16) =
      some (.response ⟨0x37B50000, 0x3FDFE000, 0x4516C000, 0x3F800000⟩) := by decide +kernel

/-- 95_test_vectors 2.5.1, mode 14, DEC.BC6H.SF16 0, 0, 0. -/
theorem test_step_bc6h_mode14_signed :
    stepOutcome (unitState 0x0005 0 0x57AB474603FD8FE4DE8220385F07DD6F 16) =
      some (.response ⟨0x38350000, 0xC7402000, 0xBCD24000, 0x3F800000⟩) := by decide +kernel

/-- 95_test_vectors 2.6.1, mode 0, DEC.BC7 0, 0, 0. -/
theorem test_step_bc7_mode0_first_pixel :
    stepOutcome (unitState 0x0006 0 0x088601F350DC43C159041A89ECD6CA3D 16) =
      some (.response ⟨0x3E3CBCBD, 0x3F2EAEAF, 0x3F23A3A4, 0x3F800000⟩) := by decide +kernel

/-- 95_test_vectors 2.6.1, mode 0, DEC.BC7 0, 3, 3. -/
theorem test_step_bc7_mode0_last_pixel :
    stepOutcome (unitState 0x00F6 0 0x088601F350DC43C159041A89ECD6CA3D 16) =
      some (.response ⟨0x3EC6C6C7, 0x00000000, 0x3F67E7E8, 0x3F800000⟩) := by decide +kernel

/-- 95_test_vectors 2.6.1, mode 1, DEC.BC7 0, 0, 0. -/
theorem test_step_bc7_mode1_first_pixel :
    stepOutcome (unitState 0x0006 0 0x7BFC4DD6D2FD2931CBDFB54622016E0A 16) =
      some (.response ⟨0x3EEAEAEB, 0x3E4CCCCD, 0x3E1C9C9D, 0x3F800000⟩) := by decide +kernel

/-- 95_test_vectors 2.6.1, mode 1, DEC.BC7 0, 3, 3. -/
theorem test_step_bc7_mode1_last_pixel :
    stepOutcome (unitState 0x00F6 0 0x7BFC4DD6D2FD2931CBDFB54622016E0A 16) =
      some (.response ⟨0x3EE6E6E7, 0x3F6BEBEC, 0x3E8E8E8F, 0x3F800000⟩) := by decide +kernel

/-- 95_test_vectors 2.6.1, mode 2, DEC.BC7 0, 0, 0. -/
theorem test_step_bc7_mode2_first_pixel :
    stepOutcome (unitState 0x0006 0 0x1DD1D13E7D721E0B0D660382C38CA804 16) =
      some (.response ⟨0x3F1F9FA0, 0x3E189899, 0x3ED6D6D7, 0x3F800000⟩) := by decide +kernel

/-- 95_test_vectors 2.6.1, mode 2, DEC.BC7 0, 3, 3. -/
theorem test_step_bc7_mode2_last_pixel :
    stepOutcome (unitState 0x00F6 0 0x1DD1D13E7D721E0B0D660382C38CA804 16) =
      some (.response ⟨0x3F35B5B6, 0x3D008081, 0x3F77F7F8, 0x3F800000⟩) := by decide +kernel

/-- 95_test_vectors 2.6.1, mode 3, DEC.BC7 0, 0, 0. -/
theorem test_step_bc7_mode3_first_pixel :
    stepOutcome (unitState 0x0006 0 0x1D071D71D491553B14A3322A56CCE0E8 16) =
      some (.response ⟨0x3EE2E2E3, 0x3F119192, 0x3F1D9D9E, 0x3F800000⟩) := by decide +kernel

/-- 95_test_vectors 2.6.1, mode 3, DEC.BC7 0, 3, 3. -/
theorem test_step_bc7_mode3_last_pixel :
    stepOutcome (unitState 0x00F6 0 0x1D071D71D491553B14A3322A56CCE0E8 16) =
      some (.response ⟨0x3F2DADAE, 0x3F159596, 0x3E0C8C8D, 0x3F800000⟩) := by decide +kernel

/-- 95_test_vectors 2.6.1, mode 4, DEC.BC7 0, 0, 0. -/
theorem test_step_bc7_mode4_first_pixel :
    stepOutcome (unitState 0x0006 0 0xE29F0C74E82C221C713F2E0494195710 16) =
      some (.response ⟨0x3F1A9A9B, 0x3E5CDCDD, 0x3E5CDCDD, 0x3F5CDCDD⟩) := by decide +kernel

/-- 95_test_vectors 2.6.1, mode 4, DEC.BC7 0, 3, 3. -/
theorem test_step_bc7_mode4_last_pixel :
    stepOutcome (unitState 0x00F6 0 0xE29F0C74E82C221C713F2E0494195710 16) =
      some (.response ⟨0x3F3DBDBE, 0x3E44C4C5, 0x3E949495, 0x3F4BCBCC⟩) := by decide +kernel

/-- 95_test_vectors 2.6.1, mode 5, DEC.BC7 0, 0, 0. -/
theorem test_step_bc7_mode5_first_pixel :
    stepOutcome (unitState 0x0006 0 0xE33AC8B1B83B0475E5ACC7CDC4FB03E0 16) =
      some (.response ⟨0x3EA4A4A5, 0x3EC4C4C5, 0x3ED6D6D7, 0x3F37B7B8⟩) := by decide +kernel

/-- 95_test_vectors 2.6.1, mode 5, DEC.BC7 0, 3, 3. -/
theorem test_step_bc7_mode5_last_pixel :
    stepOutcome (unitState 0x00F6 0 0xE33AC8B1B83B0475E5ACC7CDC4FB03E0 16) =
      some (.response ⟨0x3F6DEDEE, 0x3F5DDDDE, 0x3EF2F2F3, 0x3E40C0C1⟩) := by decide +kernel

/-- 95_test_vectors 2.6.1, mode 6, DEC.BC7 0, 0, 0. -/
theorem test_step_bc7_mode6_first_pixel :
    stepOutcome (unitState 0x0006 0 0xD54C9E09BAC626E6F1A4D86BF2447240 16) =
      some (.response ⟨0x3F27A7A8, 0x3E5CDCDD, 0x3E2CACAD, 0x3F31B1B2⟩) := by decide +kernel

/-- 95_test_vectors 2.6.1, mode 6, DEC.BC7 0, 3, 3. -/
theorem test_step_bc7_mode6_last_pixel :
    stepOutcome (unitState 0x00F6 0 0xD54C9E09BAC626E6F1A4D86BF2447240 16) =
      some (.response ⟨0x3E64E4E5, 0x3EE2E2E3, 0x3EC2C2C3, 0x3F59D9DA⟩) := by decide +kernel

/-- 95_test_vectors 2.6.1, mode 7, DEC.BC7 0, 0, 0. -/
theorem test_step_bc7_mode7_first_pixel :
    stepOutcome (unitState 0x0006 0 0x135496E8EE0F2AB31DA322689B591980 16) =
      some (.response ⟨0x3E109091, 0x3F57D7D8, 0x3F36B6B7, 0x3EAAAAAB⟩) := by decide +kernel

/-- 95_test_vectors 2.6.1, mode 7, DEC.BC7 0, 3, 3. -/
theorem test_step_bc7_mode7_last_pixel :
    stepOutcome (unitState 0x00F6 0 0x135496E8EE0F2AB31DA322689B591980 16) =
      some (.response ⟨0x3E109091, 0x3F57D7D8, 0x3F36B6B7, 0x3EAAAAAB⟩) := by decide +kernel

/-- 95_test_vectors 2.2, red and blue, code 2. -/
theorem test_step_bc1_four_colours :
    stepOutcome (unitState 0x0020 0 0x000000E4001FF800 8) =
      some (.response ⟨0x3F2AAAAB, 0x00000000, 0x3EAAAAAB, 0x3F800000⟩) := by decide +kernel

/-- 95_test_vectors 2.2, c0 = c1 = 0x8410, row 3, code 2. -/
theorem test_step_bc1_equal_endpoints :
    stepOutcome (unitState 0x00C0 0 0xAA55FFE484108410 8) =
      some (.response ⟨0x3F042108, 0x3F020821, 0x3F042108, 0x3F800000⟩) := by decide +kernel

/-- 95_test_vectors 2.3, block X. -/
theorem test_step_bc3_four_colours :
    stepOutcome (unitState 0x0021 0 0x000000E4001FF800FAC688FAC68800FF 16) =
      some (.response ⟨0x3F2AAAAB, 0x00000000, 0x3EAAAAAB, 0x3F5B6DB7⟩) := by decide +kernel

/-- 95_test_vectors 2.3, block Y. -/
theorem test_step_bc3_alpha_is_not_bc1_alpha :
    stepOutcome (unitState 0x0031 0 0x000000E4F800001F000000000ABEFF00 16) =
      some (.response ⟨0x00000000, 0x00000000, 0x00000000, 0x3F4CCCCD⟩) := by decide +kernel

/-- 95_test_vectors E2. -/
theorem test_step_bc4_alternating :
    stepOutcome (unitState 0x0042 0 0x20820820820800FF 8) =
      some (.response ⟨0x3F800000, 0x00000000, 0x00000000, 0x00000000⟩) := by decide +kernel

/-- 43_bc4_bc5 R177, example. -/
theorem test_step_bc5_two_planes :
    stepOutcome (unitState 0x0023 0 0xFAC688FAC688C864FAC688FAC68864C8 16) =
      some (.response ⟨0x3F3A714D, 0x3EF0F0F1, 0x00000000, 0x00000000⟩) := by decide +kernel

/-- 44_bc6h R230, example. -/
theorem test_step_bc6h_unsigned_maximum :
    stepOutcome (unitState 0x0004 0 0x000000000000000000000007FFFFFFE3 16) =
      some (.response ⟨0x477FE000, 0x477FE000, 0x477FE000, 0x3F800000⟩) := by decide +kernel

/-- 44_bc6h R231, example. -/
theorem test_step_bc6h_signed_minimum :
    stepOutcome (unitState 0x0005 0 0x00000000000000000000000401004003 16) =
      some (.response ⟨0xC77FE000, 0xC77FE000, 0xC77FE000, 0x3F800000⟩) := by decide +kernel

/-- 45_bc7 R283, example. -/
theorem test_step_bc7_parity_bits :
    stepOutcome (unitState 0x0016 0 0xF00000000000008B3264C993264C9940 16) =
      some (.response ⟨0x3ECACACB, 0x3ECACACB, 0x3ECACACB, 0x3ECACACB⟩) := by decide +kernel

/-- 95_test_vectors E6. -/
theorem test_step_bc6h_reserved13 :
    stepOutcome (unitState 0x00F5 0 0xFFFFFFFFFFFFFFFFFFFFFFFFFFFFFFF3 16) =
      some (.response ⟨0x00000000, 0x00000000, 0x00000000, 0x3F800000⟩) := by decide +kernel

/-- 95_test_vectors E6. -/
theorem test_step_bc6h_reserved17 :
    stepOutcome (unitState 0x0004 0 0xFFFFFFFFFFFFFFFFFFFFFFFFFFFFFFF7 16) =
      some (.response ⟨0x00000000, 0x00000000, 0x00000000, 0x3F800000⟩) := by decide +kernel

/-- 95_test_vectors E6. -/
theorem test_step_bc6h_reserved1B :
    stepOutcome (unitState 0x0004 0 0xFFFFFFFFFFFFFFFFFFFFFFFFFFFFFFFB 16) =
      some (.response ⟨0x00000000, 0x00000000, 0x00000000, 0x3F800000⟩) := by decide +kernel

/-- 95_test_vectors E6. -/
theorem test_step_bc6h_reserved1F :
    stepOutcome (unitState 0x0004 0 0xFFFFFFFFFFFFFFFFFFFFFFFFFFFFFFFF 16) =
      some (.response ⟨0x00000000, 0x00000000, 0x00000000, 0x3F800000⟩) := by decide +kernel

/-- 95_test_vectors E5. -/
theorem test_step_bc7_reserved :
    stepOutcome (unitState 0x00B6 0 0x00000000000000000000000000000000 16) =
      some (.response ⟨0x00000000, 0x00000000, 0x00000000, 0x00000000⟩) := by decide +kernel

/-! ## Witnesses: states and operands that meet the hypotheses of each statement, clause by clause -/

/-- A state whose host has the turn and makes the move `m`. -/
def hostState (m : HostMove) (launch : Option Nat) (units : List DecoderUnit) : State :=
  { State.reset with units := units, launch := launch, host := [m], schedule := [.host] }

/-- The same array with one address bit. -/
def narrow (s : State) : State := { s with cfg := { s.cfg with addrW := 1 } }

theorem test_witness_EveryStepKeepsStateInvariant :
    ∃ s t : State, s.Inv = true ∧ s.allIdle = false ∧ step s = .next t := ⟨unitState 7 0 0 8, _, by decide, by decide, rfl⟩

theorem test_witness_NoStepWritesTheLaunchBuffer :
    (∃ s t : State, s.launch = some 8 ∧ step s = .next t ∧ ∃ u q rest, s.turn = .serve u q rest) ∧
    ∃ s t : State, s.launch = some 8 ∧ step s = .next t ∧ t.launch = none :=
  ⟨⟨unitState 7 0 0 8, _, rfl, rfl, 0, ⟨7, 0⟩, [], rfl⟩, hostState .endLaunch (some 8) [⟨none⟩], _, rfl, rfl, rfl⟩

theorem test_witness_ResetDropsRequestsInFlight :
    (hostState .reset (some 8) [⟨some ⟨0, 0⟩⟩]).turn = .host [] ∧
    (hostState .reset (some 8) [⟨some ⟨0, 0⟩⟩]).host = [.reset] := by decide

theorem test_witness_LaunchHandsOverTheBytes :
    (hostState (.launch [0, 5]) none [⟨none⟩]).turn = .host [] ∧
    (hostState (.launch [0, 5]) none [⟨none⟩]).host = [.launch [0, 5]] ∧
    (hostState (.launch [0, 5]) none [⟨none⟩]).launch = none ∧
    [0, 5].length ≤ 2 ^ (hostState (.launch [0, 5]) none [⟨none⟩]).cfg.addrW ∧
    (hostState (.launch [0, 5]) (some 0) [⟨none⟩]).turn = .host [] ∧
    (hostState (.launch [0, 5]) (some 0) [⟨none⟩]).launch = some 0 ∧
    (narrow (hostState (.launch [0, 5, 0]) none [⟨none⟩])).turn = .host [] ∧
    2 ^ (narrow (hostState (.launch [0, 5, 0]) none [⟨none⟩])).cfg.addrW < [0, 5, 0].length := by decide

/-- R8, R40: with one address bit the host hands over two bytes, not three. -/
theorem test_launch_addresses :
    (∃ t, step (narrow (hostState (.launch [0, 5]) none [⟨none⟩])) = .next t ∧ t.launch = some 2 ∧ t.Inv = true) ∧
    (∃ t, step (narrow (hostState (.launch [0, 5, 0]) none [⟨none⟩])) = .next t ∧ t.launch = none ∧ t.Inv = true) ∧
    (narrow (hostState .reset (some 3) [⟨none⟩])).Inv = false :=
  ⟨⟨_, rfl, rfl, by decide⟩, ⟨_, rfl, rfl, by decide⟩, by decide⟩

theorem test_witness_HostIssuesAndEndsLaunches :
    (let s := hostState (.issue 1 ⟨0, 2 ^ 32 - 1⟩) (some 8) [⟨some ⟨0, 0⟩⟩, ⟨none⟩]
     s.turn = .host [] ∧ s.launch = some 8 ∧ 1 < s.units.length ∧ s.latchOf 1 = none ∧ 2 ^ 32 - 1 < 2 ^ s.cfg.addrW) ∧
    (let s := hostState (.issue 0 ⟨0, 0⟩) (some 8) [⟨some ⟨0, 0⟩⟩]
     s.turn = .host [] ∧ s.latchOf 0 = some ⟨0, 0⟩) ∧
    (let s := hostState (.issue 0 ⟨0, 0⟩) none [⟨none⟩]
     s.turn = .host [] ∧ s.host = [.issue 0 ⟨0, 0⟩] ∧ s.launch = none) ∧
    (let s := hostState (.issue 1 ⟨0, 0⟩) (some 8) [⟨none⟩]
     s.turn = .host [] ∧ s.units.length ≤ 1) ∧
    (let s := hostState (.issue 0 ⟨0, 2 ^ 32⟩) (some 8) [⟨none⟩]
     s.turn = .host [] ∧ 2 ^ s.cfg.addrW ≤ 2 ^ 32) ∧
    (let s := hostState .endLaunch none [⟨none⟩]
     s.turn = .host [] ∧ s.host = [.endLaunch] ∧ s.launch = none) ∧
    (let s := hostState .endLaunch (some 8) [⟨none⟩]
     s.turn = .host [] ∧ s.launch = some 8 ∧ s.allIdle = true) ∧
    (let s := hostState .endLaunch (some 8) [⟨some ⟨0, 0⟩⟩]
     s.turn = .host [] ∧ s.allIdle = false) := by decide

/-- The steps of those moves, run: a request issued, a launch ended. -/
theorem test_host_moves :
    (∃ t, step (hostState (.issue 0 ⟨0x13, 4⟩) (some 8) [⟨none⟩]) = .next t ∧ t.units = [⟨some ⟨0x13, 4⟩⟩] ∧ t.host = []) ∧
    (∃ t, step (hostState .reset (some 8) [⟨some ⟨0, 0⟩⟩]) = .next t ∧ t.units = [⟨none⟩] ∧ t.outcomes = []) ∧
    ∃ t, step (hostState (.issue 0 ⟨0x13, 4⟩) none [⟨none⟩]) = .next t ∧ t.units = [⟨none⟩] ∧ t.schedule = [] :=
  ⟨⟨_, rfl, rfl, rfl⟩, ⟨_, rfl, rfl, rfl⟩, _, rfl, rfl, rfl⟩

/-- A program of two requests on two units of three, with a schedule of its own, and one of `DECBLK.BC1 0`. -/
theorem test_witness_EndStateListsOutcomesInRequestOrder :
    (let p : Program := ⟨[1, 2], [⟨0x10, 0⟩, ⟨0x7, 3⟩]⟩
     let s : State := { State.reset with
       units := [⟨none⟩, ⟨none⟩, ⟨none⟩], host := p.moves [2, 0], schedule := [.unit 1, .host, .host, .host, .unit 0] }
     s.launch = none ∧ s.allIdle = true ∧ [2, 0].length = p.reqs.length ∧ (∀ u ∈ [2, 0], u < s.units.length) ∧
       p.bytes.length ≤ 2 ^ s.cfg.addrW ∧ (∀ q ∈ p.reqs, q.off < 2 ^ s.cfg.addrW) ∧
       s.host = [.launch [1, 2], .issue 2 ⟨0x10, 0⟩, .issue 0 ⟨0x7, 3⟩, .endLaunch]) ∧
    (let p : Program := ⟨List.replicate 8 0, decblk .bc1 0⟩
     (List.replicate 16 0).length = p.reqs.length ∧ p.bytes.length ≤ 2 ^ 32 ∧ 0 + Format.bc1.size ≤ p.bytes.length ∧
       ∀ q ∈ p.reqs, q.off < 2 ^ 32) := by decide

/-- R334: the end state is in request order, whatever the order of delivery; an earlier launch's outcome of the same request does not
count; there is none while a request has not ended. -/
theorem test_endState :
    let s : State := { State.reset with
      outcomes := [⟨⟨8, 0⟩, .refused .reservedField⟩, ⟨⟨0, 1⟩, .fault ⟨1, 0, 1, 8⟩⟩, ⟨⟨8, 0⟩, .refused .reservedOp⟩], launchStart := 1 }
    s.endState [⟨8, 0⟩, ⟨0, 1⟩] = some [.refused .reservedOp, .fault ⟨1, 0, 1, 8⟩] ∧
    s.endState [⟨8, 0⟩, ⟨8, 0⟩] = none ∧ s.ended [⟨0, 1⟩] = true ∧ s.ended [⟨0, 2⟩] = false := by decide

/-- R72: the result of `DECBLK.BC4 5`, its 16 responses delivered in the opposite order. Pixel i = 4y + x has `cmd = 0x2 + 0x10 i`. -/
theorem test_decblk :
    let s : State := { State.reset with
      outcomes := (decblk .bc4 5).reverse.map fun q => ⟨q, .response ⟨q.cmd.setWidth 32, 0, 0, 0⟩⟩ }
    (s.decblkResult .bc4 5).map (·.map fun c => c.r.toNat) =
      some [0x02, 0x12, 0x22, 0x32, 0x42, 0x52, 0x62, 0x72, 0x82, 0x92, 0xA2, 0xB2, 0xC2, 0xD2, 0xE2, 0xF2] ∧
    s.decblkResult .bc4 6 = none := by decide +kernel

theorem test_witness_StepRunsTheDecodedRequest :
    (unitState 0x10 0 0 8).turn = .serve 0 ⟨0x10, 0⟩ [] ∧ decodeRequest ⟨0x10, 0⟩ = .ok (.decBc1 1 0 0) ∧
    (unitState 0x100 0 0 8).turn = .serve 0 ⟨0x100, 0⟩ [] ∧ decodeRequest ⟨0x100, 0⟩ = .error .reservedField := by decide

theorem test_witness_OutcomesFollowTheirPriority :
    (unitState 0x107 9 0 16).turn = .serve 0 ⟨0x107, 9⟩ [] ∧ (unitState 0x107 9 0 16).launch = some 16 ∧
    7 ≤ (cmdOp 0x107).toNat ∧ 7 ≤ (cmdOp 0xF).toNat ∧ (cmdOp 0x106).toNat < 7 ∧ cmdRsv 0x106 ≠ 0 ∧
    (cmdOp 0x100).toNat < 7 ∧ cmdRsv 0xFF00 ≠ 0 ∧
    (opSize (cmdOp 0x00) = some 8 ∧ cmdRsv 0x00 = 0 ∧ 16 < 9 + 8 ∧ 8 + 8 ≤ 16) ∧
    (opSize (cmdOp 0xF6) = some 16 ∧ cmdRsv 0xF6 = 0 ∧ 16 < 1 + 16 ∧ 0 + 16 ≤ 16) := by decide

theorem test_witness_ResponseExactlyWhenDutiesKept :
    (unitState 0xF6 0 0 16).turn = .serve 0 ⟨0xF6, 0⟩ [] ∧ (unitState 0xF6 0 0 16).launch = some 16 ∧
    dutiesKept 16 ⟨0xF6, 0⟩ = true ∧ dutiesKept 16 ⟨0xF6, 1⟩ = false ∧ dutiesKept 16 ⟨0xF7, 0⟩ = false ∧
    dutiesKept 16 ⟨0x1F6, 0⟩ = false := by decide

theorem test_witness_OutOfBoundsBlockTakesTheFault :
    (unitState 0 9 0 16).turn = .serve 0 ⟨0, 9⟩ [] ∧ (unitState 0 9 0 16).launch = some 16 ∧ 16 < 9 + 8 ∧
    (unitState 6 1 0 16).turn = .serve 0 ⟨6, 1⟩ [] ∧ (unitState 6 1 0 16).launch = some 16 ∧ 16 < 1 + 16 := by decide

theorem test_witness_ReservedOpsAreRefused :
    (unitState 0xF8 0 0 0).turn = .serve 0 ⟨0xF8, 0⟩ [] ∧ 7 ≤ (cmdOp 0x07).toNat ∧ 7 ≤ (cmdOp 0xF8).toNat := by decide

theorem test_witness_EveryInstructionChangesOnlyItsRequest :
    (∃ t, exec (.reservedOp7 0 0 0 0) (unitState 7 0 0 8) = .next t) ∧
    (∃ t, exec (.decBc1 0 0 0) (unitState 0 0 0 8) = .next t) ∧
    ∃ t, exec (.bc7ReservedMode 0 0 0) (unitState 6 0 0 16) = .next t :=
  ⟨⟨_, rfl⟩, ⟨_, rfl⟩, _, rfl⟩

/-- Two states that differ in a byte outside the block, in the unit and in the schedule. -/
theorem test_witness_OutcomeDependsOnRequestAndBlockAlone :
    let s := unitState 0 0 0xE4001FF800 8
    let s' : State := { unitState 0 0 0x99000000E4001FF800 9 with
      units := [⟨none⟩, ⟨some ⟨0, 0⟩⟩], schedule := [.unit 1, .host] }
    s.turn = .serve 0 ⟨0, 0⟩ [] ∧ s'.turn = .serve 1 ⟨0, 0⟩ [.host] ∧ s.cfg = s'.cfg ∧ opSize (cmdOp 0) = some 8 ∧
      ∀ a, a < 8 → s.readByte a = s'.readByte a := by decide +kernel

theorem test_witness_OrderOfServiceDoesNotMatter : [0, 1, 5].Perm [5, 1, 0] := by decide

theorem test_witness_EveryRequestInFlightEnds :
    (unitState 0 0 0 8).host = [] ∧ busyCount (unitState 0 0 0 8).units = 1 ∧
    inFlight (unitState 0 0 0 8).units = [⟨0, 0⟩] := by decide

theorem test_witness_OpSelectsTheOperation : 7 ≤ (0x7 : BitVec 4).toNat ∧ 7 ≤ (0xF : BitVec 4).toNat := by decide

theorem test_witness_AssemblerLinesBecomeRequests :
    assemble .bc7 5 3 0 = some ⟨0x0036, 5⟩ ∧ ¬ (4 < 4 ∧ 0 < 4) ∧ ¬ (0 < 4 ∧ 4 < 4) := by decide

theorem test_witness_DecodeOfEncode :
    (Instr.decBc7 3 3 255).wellFormed 8 = true ∧ (Instr.reservedOp8toF 7 3 3 255 255).wellFormed 8 = true ∧
    (Instr.bc6hMode14 .sf16 3 3 ⟨⟨65535, 0, 0x8000⟩, ⟨15, 0, 8⟩, 2 ^ 63 - 1⟩).wellFormed 8 = true ∧
    (Instr.bc6hMode2 .sf16 3 3 ⟨⟨127, 0, 0⟩, ⟨63, 0, 0⟩, ⟨63, 0, 0⟩, ⟨0, 0, 63⟩, 31, 0⟩).wellFormed 8 = true ∧
    (Instr.bc7Mode1 0 0 ⟨63, 0, 0, [63, 0, 0, 0], [0, 0, 0, 0], [0, 0, 0, 63], [], [1, 0], 0, 0⟩).wellFormed 8 = true ∧
    (Instr.bc7ReservedMode 0 0 (2 ^ 120 - 1)).wellFormed 8 = true := by decide

theorem test_witness_EncodeOfDecode :
    (Code.request ⟨0xF6, 255⟩).fits 8 = true ∧ decodeCode (.request ⟨0xF6, 255⟩) = .ok (.decBc7 3 3 255) ∧
    (Code.block 0xF4 (2 ^ 128 - 1)).fits 8 = true ∧
    decodeCode (.block 0xF4 (2 ^ 128 - 1)) = .ok (.bc6hReserved1F .uf16 3 3 (2 ^ 123 - 1)) ∧ cmdRsv 0xF4 = 0 := by
  refine ⟨by decide, by rfl, by decide, by rfl, by decide⟩

theorem test_witness_FetchWordRunsTheTableInstruction :
    State.reset.Inv = true ∧ (unitState 0 0 0x123400 8).Inv = true ∧ decodeTableWord 8 0x07 = some (.reservedOp7 0 0 0 0) ∧
    decodeTableWord 8 0x1F = some (.bc6hReserved1F .uf16 0 0 0) ∧ (State.reset.withFetchWord 8 0x1F).Inv = true ∧
    (State.reset.withFetchWord 8 0x07).Inv = true := by decide

theorem test_witness_RequestsRunTheirBlockInstruction :
    (unitState 4 0 0x1F 16).turn = .serve 0 ⟨4, 0⟩ [] ∧ (unitState 4 0 0x1F 16).memRead 0 16 = some 0x1F := by decide +kernel

theorem test_witness_MemReadIsLittleEndian :
    (unitState 0 0 0x0201 2).launch = some 2 ∧ (∀ k, k < 2 → 0 + k < 2) ∧ (∃ k, k < 2 ∧ 2 ≤ 1 + k) ∧
    (unitState 0 0 0x0201 2).memRead 0 2 = some 0x0201 ∧ (unitState 0 0 0x0201 2).memRead 1 2 = none :=
  ⟨rfl, by decide, ⟨1, by decide⟩, by decide, by decide⟩

theorem test_witness_BlockBitsAreByteBits :
    (unitState 0 0 0x8000000000000001 8).memRead 0 8 = some 0x8000000000000001 ∧ 63 < 8 * 8 ∧
    Nat.testBit 0x8000000000000001 63 = true ∧ (unitState 0 0 0x8000000000000001 8).readByte (0 + (63 >>> 3)) = some 0x80 ∧
    4 ≤ 4 := by decide +kernel

theorem test_witness_CursorReadsTheNextBits :
    (unitState 0 0 0xABCD 8).memRead 0 8 = some (Cursor.mk 0xABCD 4).blk ∧ (Cursor.mk 0xABCD 4).pos + 60 ≤ 8 * 8 ∧
    ((Cursor.mk 0xABCD 4).read 8).1 = 0xBC ∧ 59 < 60 := by decide +kernel

theorem test_witness_InterpolateStaysBetweenEndpoints : interpolate (-7) 9 64 = 9 ∧ interpolate (-7) (-8) 33 = -8 := by decide

theorem test_witness_Unq8ReplicatesTheTopBits : unq8 200 8 = 200 ∧ unq8 127 7 = 255 ∧ unq8 1 5 = 8 := by decide

theorem test_witness_SextReadsTwosComplement : sext 1 1 = -1 ∧ sext 4 8 = -8 ∧ sext 4 7 = 7 := by decide

/-- One binary16 pattern for each case of R103: zero, subnormal, least and largest normal exponent, infinity, NaN. -/
theorem test_witness_HalfToFloatIsExact :
    halfToFloat 0x8000 = 0x80000000 ∧ halfToFloat 0x03FF = 0x387FC000 ∧ halfToFloat 0x0400 = 0x38800000 ∧
    halfToFloat 0x7BFF = 0x477FE000 ∧ halfToFloat 0xFC00 = 0xFF800000 ∧ halfToFloat 0x7C01 = 0x7F802000 := by decide +kernel

theorem test_witness_DefaultToF32RoundsToNearestEven :
    (Frac.mk 1 3).num ≤ (Frac.mk 1 3).den ∧ toF32 .rne32 ⟨1, 3⟩ = 0x3EAAAAAB ∧
    (0x3EAAAAAA : F32).toNat < 0x7F800000 ∧ (0x3EAAAAAA : F32) ≠ toF32 .rne32 ⟨1, 3⟩ := by decide +kernel

theorem test_witness_ToF32HasItsFourProperties :
    (Frac.mk 1 2).num ≤ (Frac.mk 1 2).den ∧ (Frac.mk 1 1).num ≤ (Frac.mk 1 1).den ∧
    fracValue ⟨1, 2⟩ ≤ fracValue ⟨1, 1⟩ ∧ fracValue ⟨1, 3⟩ = fracValue ⟨85, 255⟩ ∧ f32Value 0x3F000000 = fracValue ⟨1, 2⟩ ∧
    (0x3F000000 : F32).toNat ≤ 0x3F800000 := by decide +kernel

theorem test_witness_ConstantTablesHaveTheirProperties :
    p2Masks.length = 64 ∧ p3Rows.length = 64 ∧ a2Table.length = 64 ∧ a31Table.length = 64 ∧ a32Table.length = 64 ∧
    anchor2 63 = 15 ∧ anchor31 63 = 3 ∧ anchor32 63 = 8 ∧ partition2 63 15 = 1 := by decide

theorem test_witness_IndicesAreCutAtTheirPositions :
    127 + 1 = 82 + (16 * 3 - 2) ∧ 127 + 1 = 65 + (16 * 4 - 1) ∧ 127 + 1 = 99 + (16 * 2 - 3) ∧ 80 + 1 = 50 + (16 * 2 - 1) ∧
    anchorsOf 2 17 = [0, 2] ∧ indexPos 3 [0, 2] 3 + 82 = 89 ∧ indexPos 3 [0, 2] 15 + 82 = 125 := by decide

theorem test_witness_DecBc1Responds :
    (unitState 0 0 0xE4 8).turn = .serve 0 ⟨0, 0⟩ [] ∧ (unitState 0 0 0xE4 8).memRead 0 8 = some 0xE4 ∧
    (unitState 0 0 0xE4 8).launch = some 8 ∧ 1 + 8 > 8 := by decide +kernel

theorem test_witness_Bc1CornerCases :
    slice 0x1F0020 31 16 < slice 0x1F0020 15 0 ∧ slice 0xC000000000000000 15 0 = slice 0xC000000000000000 31 16 ∧
    slice 0xC000000000000000 (33 + 2 * 15) (32 + 2 * 15) = 3 ∧ slice 0xC000000000000000 (33 + 2 * 14) (32 + 2 * 14) ≠ 3 := by
  decide

theorem test_witness_DecBc3Responds :
    (unitState 1 0 0xE4 16).turn = .serve 0 ⟨1, 0⟩ [] ∧ (unitState 1 0 0xE4 16).memRead 0 16 = some 0xE4 ∧
    (unitState 1 0 0xE4 16).launch = some 16 ∧ 1 + 16 > 16 := by decide +kernel

/-- Planes of both palettes whose sixteen codes are 0 to 7 twice, and the boundary `e0 = e1`. -/
theorem test_witness_Bc4PlaneFollowsItsPalette :
    slice 0xFAC688FAC6880001 15 8 < slice 0xFAC688FAC6880001 7 0 ∧ slice 0xFAC688FAC6880101 7 0 ≤ slice 0xFAC688FAC6880101 15 8 ∧
    (List.range 16).map (fun i => slice 0xFAC688FAC6880001 (18 + 3 * i) (16 + 3 * i)) =
      [0, 1, 2, 3, 4, 5, 6, 7, 0, 1, 2, 3, 4, 5, 6, 7] := by decide

theorem test_witness_Bc4PlaneCornerCases : fracValue (bc4Six 7 7 3) = 7 / 255 ∧ fracValue (bc4Eight 255 0 2) = 6 / 7 := by
  decide +kernel

theorem test_witness_DecBc4AndDecBc5Respond :
    (unitState 2 0 0xE4 8).turn = .serve 0 ⟨2, 0⟩ [] ∧ (unitState 2 0 0xE4 8).memRead 0 8 = some 0xE4 ∧
    (unitState 3 0 0xE4 16).turn = .serve 0 ⟨3, 0⟩ [] ∧ (unitState 3 0 0xE4 16).memRead 0 16 = some 0xE4 ∧
    (unitState 3 0 0xE4 16).launch = some 16 ∧ 9 + 8 > 16 ∧ 1 + 16 > 16 := by decide +kernel

/-- A response is reached: the step of a BC4 request. -/
theorem test_witness_LdrOutputsLieInTheUnitInterval :
    (unitState 2 0 0 8).turn = .serve 0 ⟨2, 0⟩ [] ∧ cmdOp 2 ≠ 0x4 ∧ cmdOp 2 ≠ 0x5 ∧
    ∃ c, step (unitState 2 0 0 8) = .next ((unitState 2 0 0 8).finish 0 ⟨2, 0⟩ [] (.response c)) :=
  ⟨rfl, by decide, by decide, _, rfl⟩

/-- One block for each row of the mode table. -/
theorem test_witness_Bc6hModeFieldSelectsTheMode :
    (List.map bc6hModeOf [0x04, 0x05, 0x22, 0x06, 0x0A, 0x0E, 0x12, 0x16, 0x1A, 0x1E, 0x23, 0x07, 0x0B, 0x0F, 0x13, 0x17, 0x1B,
      0x3F]) =
      [.m1, .m2, .m3, .m4, .m5, .m6, .m7, .m8, .m9, .m10, .m11, .m12, .m13, .m14, .r13, .r17, .r1B, .r1F] := by decide

theorem test_witness_Bc6hTwoSubsetLayouts :
    (List.map bc6hModeOf [0x00, 0x01, 0x02, 0x06, 0x0A, 0x0E, 0x12, 0x16, 0x1A, 0x1E]) =
      [.m1, .m2, .m3, .m4, .m5, .m6, .m7, .m8, .m9, .m10] := by decide

theorem test_witness_Bc6hOneSubsetLayouts :
    (List.map bc6hModeOf [0x03, 0x07, 0x0B, 0x0F]) = [.m11, .m12, .m13, .m14] := by decide

theorem test_witness_Bc6hEndpointsFromFields :
    (bc6hDesc .m1).t = true ∧ 1 ≤ (bc6hDesc .m1).epb ∧ (bc6hDesc .m10).t = false ∧
    bc6hEndpointK .sf16 (bc6hDesc .m10) ⟨0, 0, 0⟩ ⟨63, 32, 31⟩ = ⟨-1, -32, 31⟩ := by decide

theorem test_witness_Bc6hUnquantizeReachesTheFullRange :
    unqU 1 1 = 0xFFFF ∧ unqU 65534 16 = 65534 ∧ unqS true (-32768) 16 = -32768 ∧ unqS false (-32768) 16 = -32767 ∧
    unqS true 511 10 = 0x7FFF ∧ unqS true 510 10 = 32672 ∧ unqS true (-2) 2 = -0x7FFF := by decide

theorem test_witness_Bc6hFinishGivesHalfPatterns :
    finishU 0xFFFF = 0x7BFF ∧ finishS false (-1) = 0x0000 ∧ finishS true (-1) = 0x8000 ∧ finishS false (-32) = 0x801F ∧
    finishS false 32767 = 0x7BFF ∧ finishS false (-32767) = 0xFBFF ∧ finishS false (-32768) = 0xFC00 := by decide

theorem test_witness_Bc6hTwoSubsetModesRespond : (unitState 4 0 0 16).turn = .serve 0 ⟨4, 0⟩ [] := by decide

theorem test_witness_Bc6hOneSubsetModesRespond : (unitState 5 0 3 16).turn = .serve 0 ⟨5, 0⟩ [] := by decide

theorem test_witness_ReservedBlocksGiveTheirFallback :
    (unitState 6 0 0 16).turn = .serve 0 ⟨6, 0⟩ [] ∧ slice 0x33 4 0 = 0x13 ∧ slice 0x37 4 0 = 0x17 ∧ slice 0x3B 4 0 = 0x1B ∧
    slice 0x3F 4 0 = 0x1F ∧ slice 0x100 7 0 = 0 := by decide

/-- Both sides of the last clause: 44_bc6h R231, mode 14 with `rw = 0x8000` gives −∞ by the bypass and −65504 without it. -/
theorem test_witness_Bc6hOutputsStayInRange :
    let s := unitState 5 0 0x800000000F 16
    s.turn = .serve 0 ⟨5, 0⟩ [] ∧ bc6hModeOf 0x800000000F = .m14 ∧
    stepOutcome s = some (.response ⟨0xFF800000, 0, 0, 0x3F800000⟩) ∧
    stepOutcome { s with cfg := { s.cfg with bc6hSf16Bypass16 := false } } =
      some (.response ⟨0xC77FE000, 0, 0, 0x3F800000⟩) := by decide +kernel

theorem test_witness_Bc7ModeIsTheLowestSetBit :
    (List.map bc7ModeOf [0x01, 0x02, 0x0C, 0x08, 0x30, 0x20, 0x40, 0x80, 0x100]) =
      [.m0, .m1, .m2, .m3, .m4, .m5, .m6, .m7, .reserved] := by decide

theorem test_witness_Bc7Layouts :
    (List.map bc7ModeOf [0x01, 0x02, 0x04, 0x08, 0x10, 0x20, 0x40, 0x80]) = [.m0, .m1, .m2, .m3, .m4, .m5, .m6, .m7] := by
  decide

theorem test_witness_Bc7EndpointsAreWidenedAndExpanded :
    Bc7Fields.fits (bc7Desc .m6) ⟨0, 0, 0, [127, 0], [0, 0], [0, 0], [127, 0], [1, 0], 0, 0⟩ = true ∧
    bc7Endpoint (bc7Desc .m6) 7 [127, 0] [1, 0] 0 = 255 ∧ bc7Endpoint (bc7Desc .m1) 6 [0, 0, 1, 0] [0, 1] 2 = 6 := by decide

theorem test_witness_Bc7PixelValues :
    Bc7Fields.fits (bc7Desc .m4) ⟨0, 1, 1, [31, 0], [0, 0], [0, 0], [63, 0], [], 0, 0⟩ = true ∧
    Bc7Fields.fits (bc7Desc .m4) ⟨0, 1, 0, [31, 0], [0, 0], [0, 0], [63, 0], [], 0, 0⟩ = true := by decide

theorem test_witness_Bc7ModesRespond : (unitState 6 0 1 16).turn = .serve 0 ⟨6, 0⟩ [] := by decide

end Sys2Proof.Tests
end

section
/-! SUPPORT. The bits of a block read from the launch buffer, and of its fields (00_scope R10, R11). -/

namespace Sys2Proof.Machine

/-- The recursion of `MemRead`: the first byte is the low byte, the read of the remaining bytes stands above it (R42). -/
theorem memRead_succ_eq_some {s : State} {addr n blk : Nat} :
    s.memRead addr (n + 1) = some blk ↔
      ∃ b rest, s.readByte addr = some b ∧ s.memRead (addr + 1) n = some rest ∧ b.toNat + 2 ^ 8 * rest = blk := by
  rw [State.memRead]
  cases s.readByte addr <;> cases s.memRead (addr + 1) n <;> simp

/-- A byte put below `rest` holds the bits 0 to 7; the bits of `rest` move up by 8. -/
theorem testBit_byte_add (b : Byte) (rest p : Nat) :
    (b.toNat + 2 ^ 8 * rest).testBit p = if p < 8 then b.toNat.testBit p else rest.testBit (p - 8) := by
  rw [Nat.add_comm, Nat.testBit_two_pow_mul_add rest b.isLt]

/-- Byte `k` of the block is the byte at `addr + k`, and it holds the block bits from `8 * k` on (R11). -/
theorem memRead_testBit {s : State} {addr n blk k j : Nat} (h : s.memRead addr n = some blk) (hk : k < n) (hj : j < 8) :
    ∃ b, s.readByte (addr + k) = some b ∧ blk.testBit (8 * k + j) = b.toNat.testBit j := by
  induction n generalizing addr blk k with
  | zero => omega
  | succ n ih =>
    obtain ⟨b, rest, hb, hrest, rfl⟩ := memRead_succ_eq_some.mp h
    cases k with
    | zero => exact ⟨b, hb, by rw [Nat.mul_zero, Nat.zero_add, testBit_byte_add, if_pos hj]⟩
    | succ k =>
      obtain ⟨c, hc, hbit⟩ := ih hrest (Nat.lt_of_succ_lt_succ hk)
      refine ⟨c, by rwa [Nat.add_right_comm] at hc, ?_⟩
      have hsub : 8 * (k + 1) + j - 8 = 8 * k + j := by omega
      rw [testBit_byte_add, if_neg (by omega), hsub, hbit]

/-- The same for a bit position `p`: bit `p & 7` of byte `p >> 3`, as the bit cursor maps it (R11). -/
theorem memRead_testBit_shift {s : State} {addr n blk p : Nat} (h : s.memRead addr n = some blk) (hp : p < 8 * n) :
    ∃ b, s.readByte (addr + (p >>> 3)) = some b ∧ blk.testBit p = b.toNat.testBit (p &&& 7) := by
  have hdiv : p >>> 3 = p / 8 := Nat.shiftRight_eq_div_pow p 3
  have hmod : p &&& 7 = p % 8 := Nat.and_two_pow_sub_one_eq_mod p 3
  rw [hdiv, hmod]
  simpa [Nat.div_add_mod] using memRead_testBit h (Nat.div_lt_of_lt_mul hp) (Nat.mod_lt p (by decide))

/-- Bit `k` of `v[hi:lo]` is bit `lo + k` of `v`; above `hi` the field has no bits (R10). -/
theorem testBit_slice (v hi lo k : Nat) : (slice v hi lo).testBit k = (decide (lo + k ≤ hi) && v.testBit (lo + k)) := by
  have hk : k < hi + 1 - lo ↔ lo + k ≤ hi := by omega
  simp [slice, Nat.testBit_mod_two_pow, Nat.testBit_shiftRight, hk]

/-- Settles O27: the bits of the block by induction on its bytes, the bits of a field by shift and remainder. -/
theorem blockBitsAreByteBits : Obligations.BlockBitsAreByteBits :=
  ⟨fun _ _ _ _ _ h hp => memRead_testBit_shift h hp, fun v hi lo k _ => testBit_slice v hi lo k⟩

end Sys2Proof.Machine
end

section
/-! SUPPORT. What serving a request can do, and on which bytes its outcome depends (10_state R27, 60_exceptions R306). -/

namespace Sys2Proof.Machine

/-- A read depends on the bytes it reads alone (20_memory R42). -/
theorem memRead_congr {s s' : State} {addr n : Nat}
    (h : ∀ a, addr ≤ a → a < addr + n → s.readByte a = s'.readByte a) : s.memRead addr n = s'.memRead addr n := by
  induction n generalizing addr with
  | zero => rfl
  | succ n ih =>
    have hfirst : s.readByte addr = s'.readByte addr := h addr (by omega) (by omega)
    have hrest : s.memRead (addr + 1) n = s'.memRead (addr + 1) n := ih fun a _ _ => h a (by omega) (by omega)
    simp only [State.memRead, hfirst, hrest]

/-- A meaning that ends the request in a response, whose colour depends on no more of the state than the parameters. -/
def RespondsByConfig (k : State → Host.Outcome State Fault Refusal) : Prop :=
  ∃ c : Config → Color, ∀ s, k s = respond (c s.cfg) s

theorem respondsByConfig_respond (c : Config → Color) : RespondsByConfig fun s => respond (c s.cfg) s :=
  ⟨c, fun _ => rfl⟩

theorem runBc6h_respondsByConfig (sg : Signedness) (x y : Coord) (blk : Nat) : RespondsByConfig (runBc6h sg x y blk) := by
  unfold runBc6h
  cases bc6hModeOf blk
  case m1 | m2 | m3 | m4 | m5 | m6 | m7 | m8 | m9 | m10 =>
    exact respondsByConfig_respond fun cfg => bc6hTwoColor cfg sg _ _ (pixelIndex x y)
  case m11 | m12 | m13 | m14 => exact respondsByConfig_respond fun cfg => bc6hOneColor cfg sg _ _ (pixelIndex x y)
  case r13 | r17 | r1B | r1F => exact respondsByConfig_respond fun _ => bc6hReservedColor

theorem runBc7_respondsByConfig (x y : Coord) (blk : Nat) : RespondsByConfig (runBc7 x y blk) := by
  unfold runBc7
  cases bc7ModeOf blk
  case m0 | m1 | m2 | m3 | m4 | m5 | m6 | m7 =>
    exact respondsByConfig_respond fun cfg => bc7Color cfg _ _ (pixelIndex x y)
  case reserved => exact respondsByConfig_respond fun _ => bc7ReservedColor

theorem step_serve {s : State} {u : Nat} {q : Request} {rest : List Agent} (h : s.turn = .serve u q rest) :
    step s = serve q s := by
  simp only [step, h]

/-- Serving the request is the fetch of its block and then a response, which the parameters and the block fix (10_state R27). -/
def FetchesAndResponds (q : Request) : Prop :=
  ∃ size k, opSize (cmdOp q.cmd) = some size ∧ (∀ blk, RespondsByConfig (k blk)) ∧ ∀ s, serve q s = withBlock q.off size k s

theorem fetchesAndResponds_of_decode {q : Request} {i : Instr} {size : Nat} {k : Nat → State → Host.Outcome State Fault Refusal}
    (hdec : decodeRequest q = .ok i) (hsize : opSize (cmdOp q.cmd) = some size) (hk : ∀ blk, RespondsByConfig (k blk))
    (hexec : exec i = withBlock q.off size k) : FetchesAndResponds q :=
  ⟨size, k, hsize, hk, fun s => by simp only [serve, hdec, hexec]⟩

/-- One case for each of the seven operations (30_encoding R61). -/
theorem fetchesAndResponds_of_op_lt {q : Request} (hop : (cmdOp q.cmd).toNat < 7) (hrsv : cmdRsv q.cmd = 0) :
    FetchesAndResponds q := by
  have hdec := decodeRequest.eq_def q
  have hsize := opSize.eq_def (cmdOp q.cmd)
  simp only [if_pos hrsv] at hdec
  generalize (cmdOp q.cmd).toNat = n at hop hdec hsize
  match n, hop with
  | 0, _ => exact fetchesAndResponds_of_decode hdec hsize (fun blk => respondsByConfig_respond (bc1Color · blk _)) rfl
  | 1, _ => exact fetchesAndResponds_of_decode hdec hsize (fun blk => respondsByConfig_respond (bc3Color · blk _)) rfl
  | 2, _ => exact fetchesAndResponds_of_decode hdec hsize (fun blk => respondsByConfig_respond (bc4Color · blk _)) rfl
  | 3, _ => exact fetchesAndResponds_of_decode hdec hsize (fun blk => respondsByConfig_respond (bc5Color · blk _)) rfl
  | 4, _ => exact fetchesAndResponds_of_decode hdec hsize (runBc6h_respondsByConfig .uf16 _ _) rfl
  | 5, _ => exact fetchesAndResponds_of_decode hdec hsize (runBc6h_respondsByConfig .sf16 _ _) rfl
  | 6, _ => exact fetchesAndResponds_of_decode hdec hsize (runBc7_respondsByConfig _ _) rfl

theorem serve_reservedOp {q : Request} (hop : 7 ≤ (cmdOp q.cmd).toNat) (s : State) : serve q s = refuse .reservedOp s := by
  unfold serve decodeRequest
  generalize (cmdOp q.cmd).toNat = n at hop
  match n, hop with
  | 7, _ => rfl
  | _ + 8, _ => rfl

theorem serve_reservedField {q : Request} (hop : (cmdOp q.cmd).toNat < 7) (hrsv : cmdRsv q.cmd ≠ 0) (s : State) :
    serve q s = refuse .reservedField s := by
  have hdec : decodeRequest q = .error .reservedField := by
    simp only [decodeRequest, if_neg hrsv]
    generalize (cmdOp q.cmd).toNat = n at hop
    match n, hop with
    | 0, _ | 1, _ | 2, _ | 3, _ | 4, _ | 5, _ | 6, _ => rfl
  simp only [serve, hdec]

/-- Everything serving a request can do, in the order of the checks (60_exceptions R306). -/
theorem serve_cases (q : Request) :
    (7 ≤ (cmdOp q.cmd).toNat ∧ ∀ s, serve q s = refuse .reservedOp s) ∨
    ((cmdOp q.cmd).toNat < 7 ∧ cmdRsv q.cmd ≠ 0 ∧ ∀ s, serve q s = refuse .reservedField s) ∨
    ((cmdOp q.cmd).toNat < 7 ∧ cmdRsv q.cmd = 0 ∧ FetchesAndResponds q) := by
  rcases Nat.lt_or_ge (cmdOp q.cmd).toNat 7 with hop | hop
  · by_cases hrsv : cmdRsv q.cmd = 0
    · exact .inr (.inr ⟨hop, hrsv, fetchesAndResponds_of_op_lt hop hrsv⟩)
    · exact .inr (.inl ⟨hop, hrsv, serve_reservedField hop hrsv⟩)
  · exact .inl ⟨hop, serve_reservedOp hop⟩

/-- Settles O15: a refusal reads nothing of the state; a fetch reads the block's bytes, which are the same in both states, and the
response then depends on the block and the parameters. -/
theorem outcomeDependsOnRequestAndBlockAlone : Obligations.OutcomeDependsOnRequestAndBlockAlone := by
  intro s s' u u' q rest rest' hs hs' hcfg hbytes
  rw [step_serve hs, step_serve hs']
  obtain ⟨-, h⟩ | ⟨-, -, h⟩ | ⟨-, -, size, k, hsize, hk, h⟩ := serve_cases q
  · exact ⟨_, (h s).trans (refuse_serve _ hs), (h s').trans (refuse_serve _ hs')⟩
  · exact ⟨_, (h s).trans (refuse_serve _ hs), (h s').trans (refuse_serve _ hs')⟩
  · have hmem : s.memRead q.off size = s'.memRead q.off size := memRead_congr fun a => hbytes size a hsize
    rw [h, h]
    cases hblk : s.memRead q.off size with
    | none =>
      rw [withBlock_none hblk, withBlock_none (hmem ▸ hblk)]
      exact ⟨_, takeFault_serve _ _ hs, takeFault_serve _ _ hs'⟩
    | some blk =>
      obtain ⟨c, hc⟩ := hk blk
      rw [withBlock_some hblk, withBlock_some (hmem ▸ hblk), hc, hc, ← hcfg]
      exact ⟨_, respond_serve _ hs, respond_serve _ hs'⟩

end Sys2Proof.Machine
end

section
/-! SUPPORT. The launch buffer: no step writes it, what `MemRead` adds up, and which of its bits the cursor reads (20_memory R41, R42,
R44). -/

namespace Sys2Proof.Machine

/-! ## No step writes the buffer -/

theorem readByte_congr {s t : State} (hlaunch : t.launch = s.launch) (hmem : t.mem = s.mem) (a : Nat) :
    t.readByte a = s.readByte a := by
  simp only [State.readByte, hlaunch, hmem]

/-- Serving a request always ends it, and its end is the whole effect (60_exceptions R300). -/
theorem step_serve_finishes {s : State} {u : Nat} {q : Request} {rest : List Agent} (h : s.turn = .serve u q rest) :
    ∃ o, step s = .next (s.finish u q rest o) := by
  rw [step_serve h]
  obtain ⟨-, hserve⟩ | ⟨-, -, hserve⟩ | ⟨-, -, size, k, -, hk, hserve⟩ := serve_cases q
  · exact ⟨_, (hserve s).trans (refuse_serve _ h)⟩
  · exact ⟨_, (hserve s).trans (refuse_serve _ h)⟩
  · rw [hserve]
    obtain ⟨-, hfault⟩ | ⟨blk, -, hfetch⟩ := withBlock_cases q.off size k s
    · exact ⟨_, hfault.trans (takeFault_serve _ _ h)⟩
    · obtain ⟨c, hc⟩ := hk blk
      exact ⟨_, (hfetch.trans (hc s)).trans (respond_serve _ h)⟩

theorem step_serve_launch_mem {s t : State} {u : Nat} {q : Request} {rest : List Agent} (h : s.turn = .serve u q rest)
    (hstep : step s = .next t) : t.launch = s.launch ∧ t.mem = s.mem := by
  obtain ⟨o, ho⟩ := step_serve_finishes h
  obtain rfl : s.finish u q rest o = t := by simpa [ho] using hstep
  exact ⟨finish_launch .., finish_mem ..⟩

/-- While a launch is open, the one move of the host that touches the buffer is to end the launch (70 R340). -/
theorem makeMove_launch_mem {s : State} {m : HostMove} {len : Nat} (hopen : s.launch = some len) (hmay : s.mayMove m = true) :
    (s.makeMove m).launch = none ∨ ((s.makeMove m).launch = s.launch ∧ (s.makeMove m).mem = s.mem) := by
  cases m with
  | launch bytes => simp [State.mayMove, hopen] at hmay
  | issue u q => exact .inr ⟨issue_launch .., issue_mem ..⟩
  | reset => exact .inr ⟨resetMove_launch .., resetMove_mem ..⟩
  | endLaunch => exact .inl (endLaunch_launch ..)

theorem hostTurn_launch_mem {s : State} {len : Nat} (hopen : s.launch = some len) (rest : List Agent) :
    (s.hostTurn rest).launch = none ∨ ((s.hostTurn rest).launch = s.launch ∧ (s.hostTurn rest).mem = s.mem) := by
  obtain hwait | ⟨m, ms, -, hmay, hmove⟩ := hostTurn_cases s rest
  · rw [hwait]
    exact .inr ⟨rfl, rfl⟩
  · rw [hmove]
    exact makeMove_launch_mem hopen hmay

theorem step_launch_mem {s t : State} {len : Nat} (hopen : s.launch = some len) (hstep : step s = .next t) :
    t.launch = none ∨ (t.launch = s.launch ∧ t.mem = s.mem) := by
  obtain ⟨u, q, rest, hturn, -⟩ | ⟨rest, -, hhost⟩ | ⟨rest, -, hwait⟩ := step_cases s
  · exact .inr (step_serve_launch_mem hturn hstep)
  · obtain rfl : s.hostTurn rest = t := by simpa [hhost] using hstep
    exact hostTurn_launch_mem hopen rest
  · obtain rfl : { s with schedule := rest } = t := by simpa [hwait] using hstep
    exact .inr ⟨rfl, rfl⟩

/-- Settles O5: a request's end, a waiting unit and every host move but the end of the launch keep `BUF_LEN` and the cells, from
which every byte is read. -/
theorem noStepWritesTheLaunchBuffer : Obligations.NoStepWritesTheLaunchBuffer := by
  intro s t len hopen hstep
  refine ⟨(step_launch_mem hopen hstep).imp_right ?_, fun u q rest hturn => ?_⟩
  · rintro ⟨hlaunch, hmem⟩
    exact ⟨hlaunch.trans hopen, readByte_congr hlaunch hmem⟩
  · obtain ⟨hlaunch, hmem⟩ := step_serve_launch_mem hturn hstep
    exact ⟨hlaunch.trans hopen, readByte_congr hlaunch hmem⟩

/-! ## `MemRead` -/

/-- `Σ_{k<n} buf[addr+k] · 2^(8k)` over the listed cells (20_memory R42). -/
def littleEndianSum (m : List Host.Cell) (addr n : Nat) : Nat :=
  ((List.range n).map fun k => (Memory.read m (addr + k)).toNat * 2 ^ (8 * k)).sum

/-- The first byte counts once; the sum over the remaining bytes stands 8 bits higher. -/
theorem littleEndianSum_succ (m : List Host.Cell) (addr n : Nat) :
    littleEndianSum m addr (n + 1) = (Memory.read m addr).toNat + 2 ^ 8 * littleEndianSum m (addr + 1) n := by
  have hterm (k : Nat) : (Memory.read m (addr + (k + 1))).toNat * 2 ^ (8 * (k + 1)) =
      2 ^ 8 * ((Memory.read m (addr + 1 + k)).toNat * 2 ^ (8 * k)) := by
    rw [Nat.mul_succ, Nat.pow_add, Nat.add_right_comm addr 1 k, Nat.add_assoc addr k 1]
    ring
  simp [littleEndianSum, List.range_succ_eq_map, Function.comp_def, hterm, List.sum_map_mul_left]

theorem readByte_of_lt {s : State} {len a : Nat} (hopen : s.launch = some len) (ha : a < len) :
    s.readByte a = some (Memory.read s.mem a) := by
  simp only [State.readByte, hopen, if_pos ha]

theorem memRead_eq_littleEndianSum {s : State} {len addr n : Nat} (hopen : s.launch = some len)
    (hin : ∀ k, k < n → addr + k < len) : s.memRead addr n = some (littleEndianSum s.mem addr n) := by
  induction n generalizing addr with
  | zero => rfl
  | succ n ih =>
    have hrest : s.memRead (addr + 1) n = some (littleEndianSum s.mem (addr + 1) n) :=
      ih fun k hk => by have := hin (k + 1) (by omega); omega
    exact memRead_succ_eq_some.mpr
      ⟨_, _, readByte_of_lt hopen (hin 0 n.succ_pos), hrest, (littleEndianSum_succ s.mem addr n).symm⟩

/-- A read that needs a byte at or above `BUF_LEN` gives nothing (20_memory R42). -/
theorem memRead_eq_none {s : State} {len addr n k : Nat} (hopen : s.launch = some len) (hk : k < n) (hout : len ≤ addr + k) :
    s.memRead addr n = none := by
  obtain ⟨n, rfl⟩ := Nat.exists_eq_add_one_of_ne_zero (Nat.ne_zero_of_lt hk)
  by_contra hsome
  obtain ⟨len', hlen', hle⟩ := (memRead_isSome s addr n).mp (Option.isSome_iff_ne_none.mpr hsome)
  obtain rfl : len = len' := Option.some.inj (hopen.symm.trans hlen')
  omega

/-- Settles O26: the sum by induction on the bytes; a missing byte leaves the read without an answer, on which the fetch faults. -/
theorem memReadIsLittleEndian : Obligations.MemReadIsLittleEndian := by
  intro s len addr n hopen
  refine ⟨memRead_eq_littleEndianSum hopen, fun ⟨k, hk, hout⟩ => ?_⟩
  have hnone : s.memRead addr n = none := memRead_eq_none hopen hk hout
  exact ⟨hnone, fun _ => withBlock_none hnone⟩

/-! ## The bit cursor -/

/-- What the cursor reads is `BLK[pos+n-1:pos]` (20_memory R44). -/
theorem cursor_read_eq_slice (c : Cursor) {n : Nat} (hn : 1 ≤ n) : (c.read n).1 = slice c.blk (c.pos + n - 1) c.pos := by
  have hwidth : c.pos + n - 1 + 1 - c.pos = n := by omega
  simp only [Cursor.read, slice, hwidth]

/-- Bit `k` of a read is bit `pos + k` of the block. -/
theorem cursor_read_testBit (c : Cursor) {n k : Nat} (hk : k < n) : (c.read n).1.testBit k = c.blk.testBit (c.pos + k) := by
  rw [cursor_read_eq_slice c (by omega), testBit_slice, decide_eq_true (by omega), Bool.true_and]

/-- Settles O28: a read is a field of the block, and the bits of the block are those of its bytes (R11). -/
theorem cursorReadsTheNextBits : Obligations.CursorReadsTheNextBits := by
  intro s off size n k c hblk hfit
  refine ⟨Nat.mod_one _, rfl, Nat.mod_lt _ (Nat.two_pow_pos n), cursor_read_eq_slice c, fun hk => ?_⟩
  obtain ⟨b, hb, hbit⟩ := memRead_testBit_shift hblk (p := c.pos + k) (by omega)
  exact ⟨b, hb, (cursor_read_testBit c hk).trans hbit⟩

end Sys2Proof.Machine
end

section
/-! SUPPORT. The command word and its fields, the operations and reserved ops it selects, and the assembler lines that make it
(30_encoding R60 to R62, R71, R72). -/

namespace Sys2Proof.Machine

/-! ## The fields of a command word -/

section MkCmd

variable (op : BitVec 4) (x y : Coord) (rsv : BitVec 8)

theorem mkCmd_toNat : (mkCmd op x y rsv).toNat = ((rsv.toNat <<< 2 ||| y.toNat) <<< 2 ||| x.toNat) <<< 4 ||| op.toNat := by
  unfold mkCmd
  rw [BitVec.toNat_append (rsv ++ y ++ x) op, BitVec.toNat_append (rsv ++ y) x, BitVec.toNat_append]

/-- The fields do not overlap, so the word is their weighted sum (R60). -/
theorem mkCmd_toNat_eq_add :
    (mkCmd op x y rsv).toNat = op.toNat + 2 ^ 4 * x.toNat + 2 ^ 6 * y.toNat + 2 ^ 8 * rsv.toNat := by
  rw [mkCmd_toNat, ← Nat.shiftLeft_add_eq_or_of_lt op.isLt, ← Nat.shiftLeft_add_eq_or_of_lt x.isLt,
    ← Nat.shiftLeft_add_eq_or_of_lt y.isLt]
  simp only [Nat.shiftLeft_eq]
  ring

/-- A field of `len` bits from bit `lo` up, by arithmetic. -/
theorem toNat_extractLsb'_mkCmd (lo len : Nat) : ((mkCmd op x y rsv).extractLsb' lo len).toNat =
    (op.toNat + 2 ^ 4 * x.toNat + 2 ^ 6 * y.toNat + 2 ^ 8 * rsv.toNat) / 2 ^ lo % 2 ^ len := by
  rw [BitVec.extractLsb'_toNat, mkCmd_toNat_eq_add, Nat.shiftRight_eq_div_pow]

@[simp] theorem cmdOp_mkCmd : cmdOp (mkCmd op x y rsv) = op :=
  BitVec.eq_of_toNat_eq ((toNat_extractLsb'_mkCmd ..).trans (by omega))

@[simp] theorem cmdX_mkCmd : cmdX (mkCmd op x y rsv) = x :=
  BitVec.eq_of_toNat_eq ((toNat_extractLsb'_mkCmd ..).trans (by omega))

@[simp] theorem cmdY_mkCmd : cmdY (mkCmd op x y rsv) = y :=
  BitVec.eq_of_toNat_eq ((toNat_extractLsb'_mkCmd ..).trans (by omega))

@[simp] theorem cmdRsv_mkCmd : cmdRsv (mkCmd op x y rsv) = rsv :=
  BitVec.eq_of_toNat_eq ((toNat_extractLsb'_mkCmd ..).trans (by omega))

/-- With the reserved field 0 the word is `op | x<<4 | y<<6` (R71). -/
theorem mkCmd_eq_cmdOf : mkCmd op x y 0 = cmdOf op.toNat x y := by
  have hor : op.toNat ||| x.toNat <<< 4 ||| y.toNat <<< 6 = (mkCmd op x y 0).toNat := by
    simp [mkCmd_toNat, Nat.shiftLeft_or_distrib, ← Nat.shiftLeft_add, Nat.or_comm, Nat.or_assoc]
  rw [cmdOf, hor, BitVec.ofNat_toNat, BitVec.setWidth_eq]

end MkCmd

/-! ## What the op selects -/

theorem cmdOp_toNat (c : Word16) : (cmdOp c).toNat = c.toNat &&& 0x000F := by
  rw [cmdOp, BitVec.extractLsb'_toNat, Nat.shiftRight_zero]
  exact (Nat.and_two_pow_sub_one_eq_mod c.toNat 4).symm

/-- A reserved op has no block size (R62). -/
theorem opSize_reservedOp {op : BitVec 4} (h : 7 ≤ op.toNat) : opSize op = none := by
  unfold opSize
  generalize op.toNat = n at h
  match n, h with
  | _ + 7, _ => rfl

/-- The operation of a format (R61). -/
def Format.instr : Format → Coord → Coord → Nat → Instr
  | .bc1 => .decBc1
  | .bc3 => .decBc3
  | .bc4 => .decBc4
  | .bc5 => .decBc5
  | .bc6hUf16 => .decBc6hUf16
  | .bc6hSf16 => .decBc6hSf16
  | .bc7 => .decBc7

theorem decodeRequest_mkCmd_format (f : Format) (x y : Coord) (off : Nat) :
    decodeRequest ⟨mkCmd f.op x y 0, off⟩ = .ok (f.instr x y off) := by
  cases f <;> simp [decodeRequest, Format.op, Format.instr]

theorem decodeRequest_cmdOf_format (f : Format) (x y : Coord) (off : Nat) :
    decodeRequest ⟨cmdOf f.op.toNat x y, off⟩ = .ok (f.instr x y off) := by
  rw [← mkCmd_eq_cmdOf, decodeRequest_mkCmd_format]

/-- Settles O19: each of the seven operations is that of a format; the sizes are read off, none for op 7 and above. -/
theorem opSelectsTheOperation : Obligations.OpSelectsTheOperation :=
  ⟨cmdOp_toNat,
    fun x y off => ⟨decodeRequest_cmdOf_format .bc1 x y off, decodeRequest_cmdOf_format .bc3 x y off,
      decodeRequest_cmdOf_format .bc4 x y off, decodeRequest_cmdOf_format .bc5 x y off,
      decodeRequest_cmdOf_format .bc6hUf16 x y off, decodeRequest_cmdOf_format .bc6hSf16 x y off,
      decodeRequest_cmdOf_format .bc7 x y off⟩,
    rfl, rfl, rfl, rfl, rfl, rfl, rfl, fun _ => opSize_reservedOp⟩

/-! ## Reserved ops -/

theorem decodeRequest_reservedOp {q : Request} (hop : 7 ≤ (cmdOp q.cmd).toNat) :
    (∃ x y rsv off, decodeRequest q = .ok (.reservedOp7 x y rsv off)) ∨
    ∃ low x y rsv off, decodeRequest q = .ok (.reservedOp8toF low x y rsv off) := by
  unfold decodeRequest
  generalize (cmdOp q.cmd).toNat = n at hop
  match n, hop with
  | 7, _ => exact .inl ⟨_, _, _, _, rfl⟩
  | _ + 8, _ => exact .inr ⟨_, _, _, _, _, rfl⟩

/-- Settles O13: both meanings are the refusal, which ends the request being served. -/
theorem reservedOpsAreRefused : Obligations.ReservedOpsAreRefused :=
  ⟨fun _ _ _ _ _ _ _ _ _ hturn => ⟨refuse_serve .reservedOp hturn, refuse_serve .reservedOp hturn⟩,
    fun _ => decodeRequest_reservedOp⟩

/-! ## Assembler lines -/

/-- The assembler's word is the one R71 writes out. -/
theorem assemble_eq_some (f : Format) (off : Nat) {x y : Nat} (hx : x < 4) (hy : y < 4) :
    assemble f off x y = some ⟨BitVec.ofNat 16 (f.op.toNat ||| x <<< 4 ||| y <<< 6), off⟩ := by
  rw [assemble, if_pos ⟨hx, hy⟩, mkCmd_eq_cmdOf, cmdOf, BitVec.toNat_ofNat, BitVec.toNat_ofNat, Nat.mod_eq_of_lt hx,
    Nat.mod_eq_of_lt hy]

@[simp] theorem decblk_length (f : Format) (off : Nat) : (decblk f off).length = 16 := rfl

/-- Request `i` of `DECBLK` is the assembler line for pixel `i`, y outer and x inner (R72). -/
theorem decblk_getElem? (f : Format) (off : Nat) {i : Nat} (hi : i < 16) :
    (decblk f off)[i]? = assemble f off (i % 4) (i / 4) := by
  interval_cases i <;> rfl

/-- Settles O20: the fields of the command word do not overlap; `DECBLK` is compared request by request. -/
theorem assemblerLinesBecomeRequests : Obligations.AssemblerLinesBecomeRequests :=
  ⟨fun f off _ _ => assemble_eq_some f off, fun _ _ _ _ h => if_neg h, assemble_eq_some .bc1 0x10 (by decide) (by decide),
    fun f off => ⟨decblk_length f off, fun _ => decblk_getElem? f off⟩⟩

end Sys2Proof.Machine
end

section
/-! SUPPORT. The mode field of a BC6H and of a BC7 block (30_encoding R66, R67; 44_bc6h R200; 45_bc7 R260). -/

namespace Sys2Proof

theorem slice_zero (v hi : Nat) : slice v hi 0 = v % 2 ^ (hi + 1) := rfl

/-! ## The 2-bit and the 5-bit field of a BC6H block -/

/-- The low bits of the low bits are the low bits. -/
theorem slice_slice_zero (v : Nat) {hi hi' : Nat} (h : hi' ≤ hi) : slice (slice v hi 0) hi' 0 = slice v hi' 0 := by
  simp only [slice_zero]
  exact Nat.mod_mod_of_dvd v (pow_dvd_pow 2 (Nat.succ_le_succ h))

theorem bc6hModeOf_slice (blk : Nat) : bc6hModeOf (slice blk 4 0) = bc6hModeOf blk := by
  simp only [bc6hModeOf, slice_slice_zero blk (hi := 4) (hi' := 1) (by decide), slice_slice_zero blk (le_refl 4)]

/-- The highest bit of a mode's field and the code in it: a row of the table of R200. -/
def Bc6hMode.field : Bc6hMode → Nat × Nat
  | .m1 => (1, 0b00)
  | .m2 => (1, 0b01)
  | .m3 => (4, 0x02)
  | .m4 => (4, 0x06)
  | .m5 => (4, 0x0A)
  | .m6 => (4, 0x0E)
  | .m7 => (4, 0x12)
  | .m8 => (4, 0x16)
  | .m9 => (4, 0x1A)
  | .m10 => (4, 0x1E)
  | .m11 => (4, 0x03)
  | .m12 => (4, 0x07)
  | .m13 => (4, 0x0B)
  | .m14 => (4, 0x0F)
  | .r13 => (4, 0x13)
  | .r17 => (4, 0x17)
  | .r1B => (4, 0x1B)
  | .r1F => (4, 0x1F)

theorem Bc6hMode.field_hi_le (m : Bc6hMode) : m.field.1 ≤ 4 := by cases m <;> decide

/-- Of 5 bits, a mode's field holds its code just if they select the mode: the codes of the rows exclude each other and leave
none out. -/
theorem bc6hModeOf_lt_32 (m : Bc6hMode) : ∀ m5 < 32, slice m5 m.field.1 0 = m.field.2 ↔ bc6hModeOf m5 = m := by
  cases m <;> decide

theorem bc6hModeOf_eq_iff (blk : Nat) (m : Bc6hMode) : slice blk m.field.1 0 = m.field.2 ↔ bc6hModeOf blk = m := by
  rw [← slice_slice_zero blk m.field_hi_le, ← bc6hModeOf_slice]
  exact bc6hModeOf_lt_32 m _ (slice_lt blk 4 0)

/-- Settles O45: one row of the table for each mode. -/
theorem bc6hModeFieldSelectsTheMode : Obligations.Bc6hModeFieldSelectsTheMode := fun blk =>
  have h := bc6hModeOf_eq_iff blk
  ⟨h .m1, h .m2, h .m3, h .m4, h .m5, h .m6, h .m7, h .m8, h .m9, h .m10, h .m11, h .m12, h .m13, h .m14, h .r13, h .r17, h .r1B,
    h .r1F⟩

/-! ## The lowest set bit of a BC7 block -/

theorem lowestSet_eq_find? (v fuel start : Nat) : lowestSet v fuel start = (List.range' start fuel).find? v.testBit := by
  induction fuel generalizing start with
  | zero => rfl
  | succ fuel ih => cases hbit : v.testBit start <;> simp [lowestSet, List.range'_succ, hbit, ih]

theorem slice_zero_eq_iff {v hi w : Nat} : slice v hi 0 = w ↔ ∀ j, (decide (j ≤ hi) && v.testBit j) = w.testBit j := by
  have hbit (j : Nat) : (slice v hi 0).testBit j = (decide (j ≤ hi) && v.testBit j) := by
    rw [Machine.testBit_slice, Nat.zero_add]
  exact ⟨fun h j => h ▸ (hbit j).symm, fun h => Nat.eq_of_testBit_eq fun j => (hbit j).trans (h j)⟩

/-- The scan of `BLK[7:0]` finds bit `k` just if `BLK[k]` is 1 and the bits below it are 0 (R260). -/
theorem lowestSet_eq_some_iff {v k : Nat} (hk : k < 8) : lowestSet v 8 0 = some k ↔ slice v k 0 = 2 ^ k := by
  rw [lowestSet_eq_find?, List.find?_range'_eq_some, slice_zero_eq_iff]
  simp only [Nat.testBit_two_pow]
  constructor
  · rintro ⟨hbit, -, hbelow⟩ j
    have hj := hbelow j
    grind
  · intro h
    have hkth := h k
    have hbelow (j : Nat) (hj : j < k) := h j
    grind

/-- It finds none just if `BLK[7:0] = 0`. -/
theorem lowestSet_eq_none_iff {v : Nat} : lowestSet v 8 0 = none ↔ slice v 7 0 = 0 := by
  rw [lowestSet_eq_find?, List.find?_range'_eq_none, slice_zero_eq_iff]
  simp only [Nat.zero_testBit, Bool.and_eq_false_imp, decide_eq_true_eq, Bool.not_eq_true']
  exact ⟨fun h j hj => h j (Nat.zero_le j) (by omega), fun h j _ hj => h j (by omega)⟩

/-- The number of a mode; the reserved block has none. -/
def Bc7Mode.number : Bc7Mode → Option Nat
  | .m0 => some 0
  | .m1 => some 1
  | .m2 => some 2
  | .m3 => some 3
  | .m4 => some 4
  | .m5 => some 5
  | .m6 => some 6
  | .m7 => some 7
  | .reserved => none

theorem number_bc7ModeOf (blk : Nat) : (bc7ModeOf blk).number = lowestSet blk 8 0 := by
  unfold bc7ModeOf
  cases h : lowestSet blk 8 0 with
  | none => rfl
  | some k =>
    have hk : k < 8 := by
      rw [lowestSet_eq_find?] at h
      simpa using (List.mem_range'_1.mp (List.mem_of_find?_eq_some h)).2
    interval_cases k <;> rfl

theorem bc7ModeOf_eq_iff {blk : Nat} {m : Bc7Mode} : bc7ModeOf blk = m ↔ lowestSet blk 8 0 = m.number := by
  constructor
  · rintro rfl
    exact (number_bc7ModeOf blk).symm
  · intro h
    rw [bc7ModeOf, h]
    cases m <;> rfl

theorem bc7ModeOf_eq_iff_of_number {blk k : Nat} {m : Bc7Mode} (hm : m.number = some k) (hk : k < 8) :
    bc7ModeOf blk = m ↔ slice blk k 0 = 2 ^ k := by
  rw [bc7ModeOf_eq_iff, hm, lowestSet_eq_some_iff hk]

/-- Settles O55: a mode is the number the scan finds, and the reserved block is the scan that finds none. -/
theorem bc7ModeIsTheLowestSetBit : Obligations.Bc7ModeIsTheLowestSetBit := fun _ =>
  have h {blk k : Nat} {m : Bc7Mode} := bc7ModeOf_eq_iff_of_number (blk := blk) (k := k) (m := m)
  ⟨h rfl (by decide), h rfl (by decide), h rfl (by decide), h rfl (by decide), h rfl (by decide), h rfl (by decide),
    h rfl (by decide), h rfl (by decide), bc7ModeOf_eq_iff.trans lowestSet_eq_none_iff⟩

end Sys2Proof
end

section
/-! SUPPORT. Programs run to their end: what is left of one, that every step takes some of it, and what its outcomes then are
(30_encoding R72, R73; 70_reset_and_hazards R334, R338 to R340). -/

namespace Sys2Proof.Machine

/-! ## Requests in flight -/

/-- A request put into a unit's latch is one more in flight than with that latch empty. -/
theorem inFlight_set_perm (ds : List DecoderUnit) {u : Nat} (q : Request) (hu : u < ds.length) :
    (inFlight (ds.set u ⟨some q⟩)).Perm (q :: inFlight (ds.set u ⟨none⟩)) := by
  induction ds generalizing u with
  | nil => simp at hu
  | cons d rest ih =>
    cases u with
    | zero => exact .refl _
    | succ u =>
      have hrest := ih (Nat.lt_of_succ_lt_succ hu)
      simp only [List.set_cons_succ, inFlight]
      split
      · next r _ => exact (hrest.cons r).trans (.swap q r _)
      · exact hrest

/-- Writing back the latch a unit has changes nothing. -/
theorem units_set_latchOf (s : State) {u : Nat} (hu : u < s.units.length) : s.units.set u ⟨s.latchOf u⟩ = s.units := by
  rw [State.latchOf, List.getD_eq_getElem _ _ hu]
  exact List.set_getElem_self hu

/-- Issuing a request to an idle unit puts it in flight. -/
theorem inFlight_issue {s : State} {u : Nat} (q : Request) (hu : u < s.units.length) (hidle : s.latchOf u = none) :
    (inFlight (s.units.set u ⟨some q⟩)).Perm (q :: inFlight s.units) := by
  have h := inFlight_set_perm s.units q hu
  rwa [← hidle, units_set_latchOf s hu] at h

/-- The request a unit ends was in flight. -/
theorem inFlight_finish {s : State} {u : Nat} {q : Request} {rest : List Agent} (hturn : s.turn = .serve u q rest) :
    (inFlight s.units).Perm (q :: inFlight (s.units.set u ⟨none⟩)) := by
  have h := inFlight_set_perm s.units q (turn_lt hturn)
  rwa [← turn_latchOf hturn, units_set_latchOf s (turn_lt hturn)] at h

theorem inFlight_eq_nil_iff (ds : List DecoderUnit) : inFlight ds = [] ↔ ∀ d ∈ ds, d.latch = none := by
  induction ds with
  | nil => simp [inFlight]
  | cons d rest ih => cases hd : d.latch <;> simp [inFlight, hd, ih]

theorem allIdle_iff_inFlight (s : State) : s.allIdle = true ↔ inFlight s.units = [] := by
  simp [State.allIdle, inFlight_eq_nil_iff]

theorem firstBusy_eq_none_iff (base : Nat) (ds : List DecoderUnit) : firstBusy base ds = none ↔ inFlight ds = [] := by
  induction ds generalizing base with
  | nil => simp [firstBusy, inFlight]
  | cons d rest ih => cases hd : d.latch <;> simp [firstBusy, inFlight, hd, ih]

theorem latchOf_of_inFlight_nil {s : State} (h : inFlight s.units = []) (u : Nat) : s.latchOf u = none := by
  rw [State.latchOf]
  rcases Nat.lt_or_ge u s.units.length with hu | hu
  · rw [List.getD_eq_getElem _ _ hu]
    exact (inFlight_eq_nil_iff s.units).mp h _ (List.getElem_mem hu)
  · rw [List.getD_eq_default _ _ hu]

/-! ## Whose turn it is -/

/-- A request is served on an entry of the schedule, or with the schedule used up. -/
theorem turn_serve_rest {s : State} {u : Nat} {q : Request} {rest : List Agent} (h : s.turn = .serve u q rest) :
    rest = s.schedule.tail := by
  unfold State.turn at h
  split at h
  · next v rest' hs =>
    split at h <;> cases h
    simp [hs]
  · cases h
  · next hs =>
    split at h <;> cases h
    simp [hs]

/-- The host has the turn on an entry of the schedule, or with the schedule used up and no unit busy. -/
theorem turn_host {s : State} {rest : List Agent} (h : s.turn = .host rest) :
    s.schedule = .host :: rest ∨ (s.schedule = [] ∧ rest = [] ∧ inFlight s.units = []) := by
  unfold State.turn at h
  split at h
  · split at h <;> cases h
  · next rest' hs =>
    cases h
    exact .inl hs
  · next hs =>
    split at h
    · cases h
    · next hbusy =>
      cases h
      exact .inr ⟨hs, rfl, (firstBusy_eq_none_iff 0 s.units).mp hbusy⟩

/-- Only a unit with an entry of the schedule waits. -/
theorem turn_wait {s : State} {rest : List Agent} (h : s.turn = .wait rest) : ∃ u, s.schedule = .unit u :: rest := by
  unfold State.turn at h
  split at h
  · next u rest' hs =>
    split at h <;> cases h
    exact ⟨u, hs⟩
  · cases h
  · split at h <;> cases h

theorem hostTurn_of_mayMove {s : State} {m : HostMove} {ms : List HostMove} (hhost : s.host = m :: ms)
    (hmay : s.mayMove m = true) (rest : List Agent) :
    s.hostTurn rest = { s.makeMove m with host := ms, schedule := rest } := by
  simp only [State.hostTurn, hhost, if_pos hmay]

/-! ## The outcome of a request -/

theorem loneUnit_turn (cfg : Config) (bytes : List Byte) (q : Request) : (loneUnit cfg bytes q).turn = .serve 0 q [] := rfl

theorem outcomeOf_eq_some {cfg : Config} {bytes : List Byte} {q : Request} {o : ReqOutcome}
    (h : step (loneUnit cfg bytes q) = .next ((loneUnit cfg bytes q).finish 0 q [] o)) : outcomeOf cfg bytes q = some o := by
  simp only [outcomeOf, h]
  rfl

/-- Whatever unit serves a request in a launch of the buffer, it answers what a lone unit does (10_state R27). -/
theorem step_serve_outcomeOf {s : State} {u : Nat} {q : Request} {rest : List Agent} {bytes : List Byte}
    (hturn : s.turn = .serve u q rest) (hlaunch : s.launch = some bytes.length) (hmem : s.mem = Memory.ofBytes 0 bytes) :
    ∃ o, step s = .next (s.finish u q rest o) ∧ outcomeOf s.cfg bytes q = some o := by
  obtain ⟨o, ho, hlone⟩ := outcomeDependsOnRequestAndBlockAlone s (loneUnit s.cfg bytes q) u 0 q rest [] hturn
    (loneUnit_turn ..) rfl fun _ a _ _ _ => readByte_congr hlaunch hmem a
  exact ⟨o, ho, outcomeOf_eq_some hlone⟩

/-! ## What is left of a program -/

/-- How many steps a move of the host brings with it: its own, and one to serve a request it issues. -/
def HostMove.work : HostMove → Nat
  | .launch _ => 1
  | .issue _ _ => 2
  | .reset => 1
  | .endLaunch => 1

/-- The steps that the requests in flight and the host's moves still need, if none is lost in waiting. -/
def State.pending (s : State) : Nat := (inFlight s.units).length + (s.host.map HostMove.work).sum

/-- A move the host makes takes pending work: an issue leaves of its two steps the one that serves the request. -/
theorem pending_hostTurn_lt {s : State} {m : HostMove} {ms : List HostMove} (hhost : s.host = m :: ms)
    (hmay : s.mayMove m = true) (rest : List Agent) : (s.hostTurn rest).pending < s.pending := by
  rw [hostTurn_of_mayMove hhost hmay]
  cases m with
  | launch bytes => simp [State.pending, hhost, HostMove.work]
  | issue u q =>
    simp only [State.mayMove, Bool.and_eq_true, decide_eq_true_eq, Option.isNone_iff_eq_none] at hmay
    obtain ⟨⟨⟨-, hu⟩, hidle⟩, -⟩ := hmay
    have hlen := (inFlight_issue q hu hidle).length_eq
    simp only [State.pending, hhost, HostMove.work, issue_units, hlen, List.map_cons, List.sum_cons, List.length_cons]
    omega
  | reset =>
    have hidle : inFlight (s.units.map fun _ => ⟨none⟩) = [] := by simp [inFlight_eq_nil_iff]
    simp only [State.pending, hhost, HostMove.work, resetMove_units, hidle, List.map_cons, List.sum_cons, List.length_nil]
    omega
  | endLaunch => simp [State.pending, hhost, HostMove.work]

theorem pending_finish_lt {s : State} {u : Nat} {q : Request} {rest : List Agent} (o : ReqOutcome)
    (hturn : s.turn = .serve u q rest) : (s.finish u q rest o).pending < s.pending := by
  have hlen := (inFlight_finish hturn).length_eq
  simp only [State.pending, finish_units, finish_host, hlen, List.length_cons]
  omega

/-! ## The phases of a run -/

/-- Each request of the program has been answered as a lone unit answers it, or is one of those left to answer. -/
structure Accounts (cfg : Config) (p : Program) (answered : List Delivered) (left : List Request) : Prop where
  requests : (answered.map (·.req) ++ left).Perm p.reqs
  outcomes : ∀ d ∈ answered, outcomeOf cfg p.bytes d.req = some d.outcome

theorem Accounts.perm {cfg : Config} {p : Program} {answered : List Delivered} {left left' : List Request}
    (h : Accounts cfg p answered left) (hperm : left'.Perm left) : Accounts cfg p answered left' where
  requests := (hperm.append_left _).trans h.requests
  outcomes := h.outcomes

/-- A request left to answer is answered. -/
theorem Accounts.answer {cfg : Config} {p : Program} {answered : List Delivered} {left : List Request} {q : Request}
    {o : ReqOutcome} (h : Accounts cfg p answered (q :: left)) (ho : outcomeOf cfg p.bytes q = some o) :
    Accounts cfg p (answered ++ [⟨q, o⟩]) left where
  requests := by simpa using h.requests
  outcomes := by simpa [or_imp, forall_and, ho] using h.outcomes

/-- The moves that issue requests to units, and end the launch. -/
def issuesThenEnd (todo : List (Nat × Request)) : List HostMove := todo.map (fun a => .issue a.1 a.2) ++ [.endLaunch]

/-- Each request can be issued to its unit once this is idle. -/
def State.Issuable (s : State) (todo : List (Nat × Request)) : Prop :=
  ∀ a ∈ todo, a.1 < s.units.length ∧ a.2.off < 2 ^ s.cfg.addrW

/-- The host stands before the program's moves (30_encoding R73). -/
structure BeforeLaunch (cfg : Config) (p : Program) (todo : List (Nat × Request)) (s : State) : Prop where
  cfg_eq : s.cfg = cfg
  launch : s.launch = none
  idle : inFlight s.units = []
  host : s.host = .launch p.bytes :: issuesThenEnd todo
  issuable : s.Issuable todo
  addressable : p.bytes.length ≤ 2 ^ s.cfg.addrW
  requests : todo.map Prod.snd = p.reqs

/-- The launch is open, and the host has still to issue the requests of `todo`. -/
structure InLaunch (cfg : Config) (p : Program) (todo : List (Nat × Request)) (s : State) : Prop where
  cfg_eq : s.cfg = cfg
  launch : s.launch = some p.bytes.length
  mem : s.mem = Memory.ofBytes 0 p.bytes
  began : s.launchStart ≤ s.outcomes.length
  host : s.host = issuesThenEnd todo
  issuable : s.Issuable todo
  accounts : Accounts cfg p s.launchOutcomes (inFlight s.units ++ todo.map Prod.snd)

/-- The launch has ended, which takes that no request is in flight (70 R340). -/
structure AfterLaunch (cfg : Config) (p : Program) (s : State) : Prop where
  launch : s.launch = none
  idle : inFlight s.units = []
  host : s.host = []
  accounts : Accounts cfg p s.launchOutcomes []

/-- A state of a run of the program. -/
inductive RunsProgram (cfg : Config) (p : Program) (s : State) : Prop where
  | before {todo : List (Nat × Request)} (h : BeforeLaunch cfg p todo s)
  | during {todo : List (Nat × Request)} (h : InLaunch cfg p todo s)
  | after (h : AfterLaunch cfg p s)

section Phases

variable {cfg : Config} {p : Program} {todo : List (Nat × Request)} {s : State}

/-- The schedule does not matter to the phase. -/
theorem runsProgram_schedule (h : RunsProgram cfg p s) (rest : List Agent) :
    RunsProgram cfg p { s with schedule := rest } := by
  cases h with
  | before h => exact .before { h with }
  | during h => exact .during { h with }
  | after h => exact .after { h with }

theorem turn_ne_serve_of_idle (h : inFlight s.units = []) {u : Nat} {q : Request} {rest : List Agent} :
    s.turn ≠ .serve u q rest := by
  intro hturn
  have hlatch := turn_latchOf hturn
  rw [latchOf_of_inFlight_nil h] at hlatch
  cases hlatch

theorem launchOutcomes_finish (hbegan : s.launchStart ≤ s.outcomes.length) (u : Nat) (q : Request) (rest : List Agent)
    (o : ReqOutcome) : (s.finish u q rest o).launchOutcomes = s.launchOutcomes ++ [⟨q, o⟩] := by
  simp only [State.launchOutcomes, finish_outcomes, finish_launchStart, List.drop_append_of_le_length hbegan]

/-- Serving a request of the launch keeps the launch going, with an outcome that is the lone unit's. -/
theorem inLaunch_serve (h : InLaunch cfg p todo s) {u : Nat} {q : Request} {rest : List Agent} (hturn : s.turn = .serve u q rest) :
    ∃ o, step s = .next (s.finish u q rest o) ∧ InLaunch cfg p todo (s.finish u q rest o) := by
  obtain ⟨o, hstep, ho⟩ := step_serve_outcomeOf hturn h.launch h.mem
  rw [h.cfg_eq] at ho
  have haccounts := (h.accounts.perm ((inFlight_finish hturn).symm.append_right _)).answer ho
  rw [← launchOutcomes_finish h.began u q rest o] at haccounts
  refine ⟨o, hstep, { h with began := ?_, issuable := ?_, accounts := haccounts }⟩
  · simpa using Nat.le_succ_of_le h.began
  · simpa [State.Issuable] using h.issuable

/-- Only in the launch is a request served. -/
theorem runsProgram_serve (h : RunsProgram cfg p s) {u : Nat} {q : Request} {rest : List Agent}
    (hturn : s.turn = .serve u q rest) :
    ∃ o, step s = .next (s.finish u q rest o) ∧ RunsProgram cfg p (s.finish u q rest o) := by
  cases h with
  | before h => exact absurd hturn (turn_ne_serve_of_idle h.idle)
  | during h => exact (inLaunch_serve h hturn).imp fun _ ho => ho.imp_right .during
  | after h => exact absurd hturn (turn_ne_serve_of_idle h.idle)

/-- With no request in flight, the host may make the move that stands next. -/
theorem mayMove_of_idle (h : RunsProgram cfg p s) {m : HostMove} {ms : List HostMove} (hhost : s.host = m :: ms)
    (hidle : inFlight s.units = []) : s.mayMove m = true := by
  cases h with
  | before h =>
    obtain ⟨rfl, -⟩ := List.cons.inj (hhost.symm.trans h.host)
    simp [State.mayMove, h.launch, h.addressable]
  | @during todo h =>
    cases todo with
    | nil =>
      obtain ⟨rfl, -⟩ := List.cons.inj (hhost.symm.trans h.host)
      simp [State.mayMove, h.launch, (allIdle_iff_inFlight s).mpr hidle]
    | cons a todo =>
      obtain ⟨rfl, -⟩ := List.cons.inj (hhost.symm.trans h.host)
      have ha := h.issuable a List.mem_cons_self
      simp [State.mayMove, h.launch, latchOf_of_inFlight_nil hidle, ha]
  | after h => rw [h.host] at hhost; cases hhost

theorem launchOutcomes_launch (bytes : List Byte) : (s.makeMove (.launch bytes)).launchOutcomes = [] := List.drop_length

/-- A move the host may make leads on to the next phase, or keeps the launch going. -/
theorem runsProgram_makeMove (h : RunsProgram cfg p s) {m : HostMove} {ms : List HostMove} (hhost : s.host = m :: ms)
    (hmay : s.mayMove m = true) (rest : List Agent) : RunsProgram cfg p (s.hostTurn rest) := by
  rw [hostTurn_of_mayMove hhost hmay]
  cases h with
  | @before todo h =>
    obtain ⟨rfl, rfl⟩ := List.cons.inj (hhost.symm.trans h.host)
    have haccounts : Accounts cfg p (s.makeMove (.launch p.bytes)).launchOutcomes (inFlight s.units ++ todo.map Prod.snd) := by
      rw [launchOutcomes_launch, h.idle, h.requests]
      exact ⟨.refl _, by simp⟩
    exact .during ⟨h.cfg_eq, rfl, rfl, le_refl _, rfl, h.issuable, haccounts⟩
  | @during todo h =>
    cases todo with
    | nil =>
      obtain ⟨rfl, rfl⟩ := List.cons.inj (hhost.symm.trans h.host)
      have hidle : inFlight s.units = [] := by
        simpa [State.mayMove, h.launch, allIdle_iff_inFlight] using hmay
      have haccounts : Accounts cfg p s.launchOutcomes [] := by simpa [hidle] using h.accounts
      exact .after ⟨rfl, hidle, rfl, haccounts⟩
    | cons a todo =>
      obtain ⟨rfl, rfl⟩ := List.cons.inj (hhost.symm.trans h.host)
      obtain ⟨ha, htodo⟩ := List.forall_mem_cons.mp h.issuable
      have hidle : s.latchOf a.1 = none := by simpa [State.mayMove, h.launch, ha] using hmay
      have hperm : (inFlight (s.units.set a.1 ⟨some a.2⟩) ++ todo.map Prod.snd).Perm
          (inFlight s.units ++ (a :: todo).map Prod.snd) :=
        ((inFlight_issue a.2 ha.1 hidle).append_right _).trans List.perm_middle.symm
      have hissuable : ∀ b ∈ todo, b.1 < (s.units.set a.1 ⟨some a.2⟩).length ∧ b.2.off < 2 ^ s.cfg.addrW := by
        simpa using htodo
      exact .during ⟨h.cfg_eq, h.launch, h.mem, h.began, rfl, hissuable, h.accounts.perm hperm⟩
  | after h => rw [h.host] at hhost; cases hhost

/-! ## A run to its end -/

/-- The steps a run still needs at most: one for each entry of the schedule, and the pending work. -/
def State.workLeft (s : State) : Nat := s.schedule.length + s.pending

theorem workLeft_hostTurn (s : State) (rest : List Agent) :
    (s.hostTurn rest).workLeft = rest.length + (s.hostTurn rest).pending := by
  obtain hwait | ⟨m, ms, -, -, hmove⟩ := hostTurn_cases s rest
  · rw [hwait]
    rfl
  · rw [hmove]
    rfl

theorem workLeft_waits {a : Agent} {rest : List Agent} (hs : s.schedule = a :: rest) :
    ({ s with schedule := rest } : State).workLeft ≤ s.workLeft - 1 := by
  simp [State.workLeft, State.pending, hs]

/-- The host's turn takes work: it moves, or an entry of the schedule is used up. Once the schedule is, no unit is busy on a host's
turn, and then the host may move. -/
theorem runsProgram_hostTurn (h : RunsProgram cfg p s) {rest : List Agent} (hturn : s.turn = .host rest) :
    RunsProgram cfg p (s.hostTurn rest) ∧ (s.hostTurn rest).workLeft ≤ s.workLeft - 1 := by
  have hwork := workLeft_hostTurn s rest
  have hmoves {m ms} (hhost : s.host = m :: ms) (hmay : s.mayMove m = true) (hrest : rest.length ≤ s.schedule.length) :
      RunsProgram cfg p (s.hostTurn rest) ∧ (s.hostTurn rest).workLeft ≤ s.workLeft - 1 := by
    have hlt := pending_hostTurn_lt hhost hmay rest
    have hleft : s.workLeft = s.schedule.length + s.pending := rfl
    exact ⟨runsProgram_makeMove h hhost hmay rest, by omega⟩
  obtain hs | ⟨hs, rfl, hidle⟩ := turn_host hturn
  · obtain hwait | ⟨m, ms, hhost, hmay, -⟩ := hostTurn_cases s rest
    · rw [hwait]
      exact ⟨runsProgram_schedule h rest, workLeft_waits hs⟩
    · exact hmoves hhost hmay (by simp [hs])
  · cases hhost : s.host with
    | nil =>
      have hstay : s.hostTurn [] = { s with schedule := [] } := by simp only [State.hostTurn, hhost]
      rw [hstay]
      exact ⟨runsProgram_schedule h [], by simp [State.workLeft, State.pending, hidle, hhost]⟩
    | cons m ms => exact hmoves hhost (mayMove_of_idle h hhost hidle) (Nat.zero_le _)

/-- Every step goes on with the run and, while work is left, takes some of it (70 R339). -/
theorem runsProgram_step (h : RunsProgram cfg p s) :
    ∃ t, step s = .next t ∧ RunsProgram cfg p t ∧ t.workLeft ≤ s.workLeft - 1 := by
  obtain ⟨u, q, rest, hturn, -⟩ | ⟨rest, hturn, hstep⟩ | ⟨rest, hturn, hstep⟩ := step_cases s
  · obtain ⟨o, hstep, hruns⟩ := runsProgram_serve h hturn
    have hlt := pending_finish_lt o hturn
    have hrest := congrArg List.length (turn_serve_rest hturn)
    refine ⟨_, hstep, hruns, ?_⟩
    simp only [State.workLeft, finish_schedule, hrest, List.length_tail]
    omega
  · exact ⟨_, hstep, runsProgram_hostTurn h hturn⟩
  · obtain ⟨u, hs⟩ := turn_wait hturn
    exact ⟨_, hstep, runsProgram_schedule h rest, workLeft_waits hs⟩

theorem core_run_succ {s' : State} (hstep : step s = .next s') (n : Nat) : core.run (n + 1) s = core.run n s' := by
  have hcore : core.step s = .next s' := hstep
  simp only [Host.Core.run, hcore]

/-- As many steps as there is work left bring the run to a state with none. -/
theorem runsProgram_run {n : Nat} (h : RunsProgram cfg p s) (hn : s.workLeft ≤ n) :
    ∃ t : State, core.run n s = .next t ∧ RunsProgram cfg p t ∧ t.workLeft = 0 := by
  induction n generalizing s with
  | zero => exact ⟨s, rfl, h, Nat.le_zero.mp hn⟩
  | succ n ih =>
    obtain ⟨s', hstep, hruns, hle⟩ := runsProgram_step h
    obtain ⟨t, hrun, hend⟩ := ih hruns (by omega)
    exact ⟨t, (core_run_succ hstep n).trans hrun, hend⟩

/-- With no work left, the launch is over. -/
theorem afterLaunch_of_workLeft_eq_zero (h : RunsProgram cfg p s) (hzero : s.workLeft = 0) : AfterLaunch cfg p s := by
  cases h with
  | before h => simp [State.workLeft, State.pending, h.host, HostMove.work] at hzero
  | during h => simp [State.workLeft, State.pending, h.host, issuesThenEnd, HostMove.work] at hzero
  | after h => exact h

theorem work_issuesThenEnd (todo : List (Nat × Request)) :
    ((issuesThenEnd todo).map HostMove.work).sum = 2 * todo.length + 1 := by
  simp [issuesThenEnd, Function.comp_def, HostMove.work, Nat.mul_comm]

theorem workLeft_beforeLaunch (h : BeforeLaunch cfg p todo s) :
    s.workLeft = s.schedule.length + 2 * p.reqs.length + 2 := by
  have hlen : todo.length = p.reqs.length := by rw [← h.requests, List.length_map]
  simp only [State.workLeft, State.pending, h.idle, h.host, List.map_cons, List.sum_cons, work_issuesThenEnd, HostMove.work, hlen,
    List.length_nil]
  omega

/-- A program whose host is about to run it. -/
theorem beforeLaunch_of_moves {us : List Nat} (hlaunch : s.launch = none) (hidle : s.allIdle = true) (hhost : s.host = p.moves us)
    (hlen : us.length = p.reqs.length) (hunits : ∀ u ∈ us, u < s.units.length) (hbytes : p.bytes.length ≤ 2 ^ s.cfg.addrW)
    (hoff : ∀ q ∈ p.reqs, q.off < 2 ^ s.cfg.addrW) : BeforeLaunch s.cfg p (us.zip p.reqs) s where
  cfg_eq := rfl
  launch := hlaunch
  idle := (allIdle_iff_inFlight s).mp hidle
  host := by rw [hhost, Program.moves, issuesThenEnd, List.map_zip_eq_zipWith]; rfl
  issuable := fun _ ha => (List.of_mem_zip ha).imp (hunits _) (hoff _)
  addressable := hbytes
  requests := List.map_snd_zip hlen.ge

end Phases

/-! ## The end state -/

/-- A lone unit always answers. -/
theorem outcomeOf_isSome (cfg : Config) (bytes : List Byte) (q : Request) : (outcomeOf cfg bytes q).isSome = true := by
  obtain ⟨o, ho⟩ := step_serve_finishes (loneUnit_turn cfg bytes q)
  rw [outcomeOf_eq_some ho]
  rfl

/-- The outcome of a request, as a lone unit answers it. -/
def loneOutcome (cfg : Config) (bytes : List Byte) (q : Request) : ReqOutcome :=
  (outcomeOf cfg bytes q).get (outcomeOf_isSome cfg bytes q)

theorem outcomeOf_eq_loneOutcome (cfg : Config) (bytes : List Byte) (q : Request) :
    outcomeOf cfg bytes q = some (loneOutcome cfg bytes q) := (Option.some_get _).symm

/-- After the launch, the end state is the outcomes of the requests in order (R334). -/
theorem endState_afterLaunch {cfg : Config} {p : Program} {t : State} (h : AfterLaunch cfg p t) :
    t.endState p.reqs = some (p.reqs.map (loneOutcome cfg p.bytes)) := by
  refine outcomesInOrder_of_function (fun d hd => ?_) ?_
  · rw [← Option.some_inj, ← outcomeOf_eq_loneOutcome, h.accounts.outcomes d hd]
  · simpa using h.accounts.requests.symm.subperm

/-! ## `DECBLK` -/

theorem opSize_format (f : Format) : opSize f.op = some f.size := by cases f <;> rfl

theorem format_op_lt (f : Format) : f.op.toNat < 7 := by cases f <;> decide

/-- A lone unit can fetch a block inside the buffer. -/
theorem memRead_loneUnit (cfg : Config) {bytes : List Byte} (q : Request) {f : Format} {off : Nat}
    (hin : off + f.size ≤ bytes.length) : ∃ blk, (loneUnit cfg bytes q).memRead off f.size = some blk := by
  obtain ⟨n, hn⟩ : ∃ n, f.size = n + 1 := Nat.exists_eq_add_one_of_ne_zero (by cases f <;> decide)
  rw [hn] at hin ⊢
  exact Option.isSome_iff_exists.mp ((memRead_isSome _ off n).mpr ⟨bytes.length, rfl, hin⟩)

/-- A block inside the buffer is answered with a response (R300). -/
theorem outcomeOf_format (cfg : Config) {bytes : List Byte} {f : Format} {off : Nat} (x y : Coord)
    (hin : off + f.size ≤ bytes.length) : ∃ c, outcomeOf cfg bytes ⟨mkCmd f.op x y 0, off⟩ = some (.response c) := by
  generalize hq : (⟨mkCmd f.op x y 0, off⟩ : Request) = q
  have hop : cmdOp q.cmd = f.op := by simp [← hq]
  have hrsv : cmdRsv q.cmd = 0 := by simp [← hq]
  have hoff : q.off = off := by simp [← hq]
  obtain ⟨size, k, hsize, hk, hserve⟩ := fetchesAndResponds_of_op_lt (hop ▸ format_op_lt f) hrsv
  obtain rfl : f.size = size := by simpa [hop, opSize_format] using hsize
  obtain ⟨blk, hblk⟩ := memRead_loneUnit cfg q hin
  obtain ⟨c, hc⟩ := hk blk
  refine ⟨c cfg, outcomeOf_eq_some ?_⟩
  rw [step_serve (loneUnit_turn ..), hserve, hoff, withBlock_some hblk, hc]
  exact respond_serve _ (loneUnit_turn ..)

theorem responsesOf_map_response (cs : List Color) : responsesOf (cs.map .response) = some cs := by
  induction cs with
  | nil => rfl
  | cons c cs ih => simp only [List.map_cons, responsesOf, ih]

theorem mem_decblk {f : Format} {off : Nat} {q : Request} (h : q ∈ decblk f off) :
    ∃ x y : Coord, q = ⟨mkCmd f.op x y 0, off⟩ := by
  simp only [decblk, List.mem_flatMap, List.mem_map] at h
  obtain ⟨y, -, x, -, rfl⟩ := h
  exact ⟨_, _, rfl⟩

/-- Every outcome of `DECBLK` on a block inside the buffer is a response. -/
theorem decblk_outcomes_are_responses {cfg : Config} {bytes : List Byte} {f : Format} {off : Nat} {os : List ReqOutcome}
    (hin : off + f.size ≤ bytes.length) (hos : (decblk f off).map (outcomeOf cfg bytes) = os.map some) :
    ∃ cs : List Color, cs.map .response = os := by
  have hrange : os ∈ Set.range (List.map ReqOutcome.response) := by
    rw [Set.range_list_map]
    intro o ho
    have hmem : some o ∈ (decblk f off).map (outcomeOf cfg bytes) := hos ▸ List.mem_map_of_mem ho
    obtain ⟨q, hq, hqo⟩ := List.mem_map.mp hmem
    obtain ⟨x, y, rfl⟩ := mem_decblk hq
    obtain ⟨c, hc⟩ := outcomeOf_format cfg x y hin
    exact ⟨c, Option.some.inj (hc.symm.trans hqo)⟩
  exact hrange

/-- `DECBLK` on a block inside the buffer gives 16 responses, each that of its pixel's assembler line (R72). -/
theorem decblkResult_of_endState {cfg : Config} {bytes : List Byte} {t : State} {f : Format} {off : Nat} {os : List ReqOutcome}
    (hin : off + f.size ≤ bytes.length) (hend : t.endState (decblk f off) = some os)
    (hos : (decblk f off).map (outcomeOf cfg bytes) = os.map some) :
    ∃ cs, t.decblkResult f off = some cs ∧ cs.length = 16 ∧
      ∀ i c, cs[i]? = some c →
        ∃ q, assemble f off (i % 4) (i / 4) = some q ∧ outcomeOf cfg bytes q = some (.response c) := by
  obtain ⟨cs, rfl⟩ := decblk_outcomes_are_responses hin hos
  have hlen : cs.length = 16 := by simpa using congrArg List.length hos.symm
  refine ⟨cs, ?_, hlen, fun i c hc => ?_⟩
  · simp only [State.decblkResult, hend, responsesOf_map_response]
  · have hi : i < 16 := hlen ▸ (List.getElem?_eq_some_iff.mp hc).1
    have hith := congrArg (·[i]?) hos
    simp only [List.getElem?_map, decblk_getElem? f off hi, hc, Option.map_some, Option.map_eq_some_iff] at hith
    exact hith

/-- Settles O60: the run is driven by the work it has left, which every step takes some of; when none is left the launch is over and
each request has the outcome of a lone unit. -/
theorem endStateListsOutcomesInRequestOrder : Obligations.EndStateListsOutcomesInRequestOrder := by
  intro s p us hlaunch hidle hhost hlen hunits hbytes hoff
  have hbefore := beforeLaunch_of_moves hlaunch hidle hhost hlen hunits hbytes hoff
  obtain ⟨t, hrun, hruns, hzero⟩ := runsProgram_run (.before hbefore) (workLeft_beforeLaunch hbefore).le
  have hafter := afterLaunch_of_workLeft_eq_zero hruns hzero
  have hend := endState_afterLaunch hafter
  have hos : p.reqs.map (outcomeOf s.cfg p.bytes) = (p.reqs.map (loneOutcome s.cfg p.bytes)).map some := by
    simp [outcomeOf_eq_loneOutcome]
  refine ⟨t, _, hrun, hafter.launch, (allIdle_iff_inFlight t).mpr hafter.idle, hafter.host, ?_, hend, hos, ?_⟩
  · rw [State.ended, hend]
    rfl
  · intro f off hreqs hin
    exact decblkResult_of_endState hin (hreqs ▸ hend) (hreqs ▸ hos)

end Sys2Proof.Machine
end

section
/-! SUPPORT. The integer primitives: `interpolate`, `unq8` and `sext` (40_primitives R100 to R102). -/

namespace Sys2Proof.Machine

/-! ## `interpolate` -/

theorem interpolate_eq_div (e0 e1 : Int) (w : Nat) : interpolate e0 e1 w = (64 * e0 + (e1 - e0) * w + 32) / 64 := by
  rw [interpolate, asr, show e0 * (64 - w) + e1 * w + 32 = 64 * e0 + (e1 - e0) * w + 32 by ring]
  rfl

/-- With a weight in 0..64 the sum lies between 64 times the one and 64 times the other endpoint, and the bias of 32 is less than a
whole step. -/
theorem interpolate_mem_Icc {e0 e1 : Int} {w : Nat} (hw : w ≤ 64) :
    min e0 e1 ≤ interpolate e0 e1 w ∧ interpolate e0 e1 w ≤ max e0 e1 := by
  have hw' : (w : Int) ≤ 64 := by exact_mod_cast hw
  rw [interpolate_eq_div]
  rcases le_total e0 e1 with h | h
  · have hlo : 0 ≤ (e1 - e0) * w := by nlinarith
    have hhi : (e1 - e0) * w ≤ (e1 - e0) * 64 := by nlinarith
    omega
  · have hhi : (e1 - e0) * w ≤ 0 := by nlinarith
    have hlo : (e1 - e0) * 64 ≤ (e1 - e0) * w := by nlinarith
    omega

/-- Settles O29: the floor shift by 6 is the floor of the quotient by 64; the rest is the sum written as `64 e0 + (e1 - e0) w`. -/
theorem interpolateStaysBetweenEndpoints : Obligations.InterpolateStaysBetweenEndpoints := by
  intro e0 e1 w hw
  obtain ⟨hmin, hmax⟩ := interpolate_mem_Icc (e0 := e0) (e1 := e1) hw
  refine ⟨(Rat.floor_intCast_div_natCast _ 64).symm, ?_, ?_, ?_, hmin, hmax, by decide⟩
  · rw [interpolate_eq_div]
    omega
  · rw [interpolate_eq_div]
    omega
  · rw [interpolate_eq_div, sub_self, zero_mul]
    omega

/-! ## `unq8` -/

theorem unq8_of_le {v n : Nat} (h : 8 ≤ n) : unq8 v n = v := if_pos h

theorem unq8_of_lt {v n : Nat} (h : n < 8) : unq8 v n = v <<< (8 - n) ||| (v <<< (8 - n)) >>> n := by
  rw [unq8, if_neg h.not_ge, Nat.shiftLeft_eq]

/-- From 5 bits on the value is as wide as its copy: what stands below the value is its own top `8 - n` bits. -/
theorem unq8_eq_shiftRight {v n : Nat} (hlo : 5 ≤ n) (hhi : n ≤ 8) (hv : v < 2 ^ n) :
    unq8 v n = v <<< (8 - n) ||| v >>> (2 * n - 8) := by
  rcases hhi.lt_or_eq with h | rfl
  · rw [unq8_of_lt h]
    congr 1
    apply Nat.eq_of_testBit_eq
    intro i
    have hle : 8 - n ≤ n + i := by omega
    have hsub : n + i - (8 - n) = 2 * n - 8 + i := by omega
    simp [Nat.testBit_shiftRight, Nat.testBit_shiftLeft, hle, hsub]
  · rw [unq8_of_le le_rfl, Nat.shiftRight_eq_div_pow, Nat.div_eq_of_lt hv]
    simp

theorem unq8_le_255 {v n : Nat} (hlo : 5 ≤ n) (hhi : n ≤ 8) (hv : v < 2 ^ n) : unq8 v n ≤ 255 := by
  rw [unq8_eq_shiftRight hlo hhi hv]
  have hwide : 2 ^ n ≤ 2 ^ 8 := Nat.pow_le_pow_right (by decide) hhi
  have htop : v <<< (8 - n) < 2 ^ 8 := by
    calc v <<< (8 - n) = v * 2 ^ (8 - n) := Nat.shiftLeft_eq v _
      _ < 2 ^ n * 2 ^ (8 - n) := Nat.mul_lt_mul_of_pos_right hv (Nat.two_pow_pos _)
      _ = 2 ^ 8 := by rw [← pow_add, Nat.add_sub_cancel' hhi]
  have hcopy : v >>> (2 * n - 8) < 2 ^ 8 := (Nat.shiftRight_le v _).trans_lt (hv.trans_le hwide)
  exact Nat.le_of_lt_succ (Nat.or_lt_two_pow htop hcopy)

/-- Settles O30: the two clauses of R101, their form for the widths of BC7, and the ends of the range for each of the four widths. -/
theorem unq8ReplicatesTheTopBits : Obligations.Unq8ReplicatesTheTopBits := by
  refine ⟨fun _ _ => unq8_of_le, fun _ _ => unq8_of_lt,
    fun _ _ hlo hhi hv => ⟨unq8_eq_shiftRight hlo hhi hv, unq8_le_255 hlo hhi hv⟩, fun n hlo hhi => ?_, by decide, by decide⟩
  interval_cases n <;> decide

/-! ## `sext` -/

theorem sext_eq_ite (n v : Nat) (hn : 1 ≤ n) :
    sext n v = if v.testBit (n - 1) then ((v % 2 ^ n : Nat) : Int) - 2 ^ n else ((v % 2 ^ n : Nat) : Int) := by
  have hlast : n - 1 < n := by omega
  simp [sext, zext, Nat.testBit_mod_two_pow, hlast]

/-- `sext` is the signed reading of the n-bit word, so it is the balanced remainder modulo `2 ^ n`. -/
theorem sext_eq_bmod (n v : Nat) (hn : 1 ≤ n) : sext n v = (v : Int).bmod (2 ^ n) := by
  have hlast : n - 1 < n := by omega
  rw [← BitVec.toInt_ofNat, BitVec.toInt_eq_msb_cond, sext_eq_ite n v hn]
  simp [BitVec.msb_eq_getLsbD_last, BitVec.getElem_eq_testBit_toNat, Nat.testBit_mod_two_pow, hlast]

/-- Settles O31: the range and the congruence are those of the balanced remainder. -/
theorem sextReadsTwosComplement : Obligations.SextReadsTwosComplement := by
  refine ⟨fun n v hn => ⟨?_, ?_, ?_, sext_eq_ite n v hn⟩, by decide, by decide, by decide⟩
  · rw [sext_eq_bmod n v hn, ← BitVec.toInt_ofNat]
    exact BitVec.le_toInt _
  · rw [sext_eq_bmod n v hn, ← BitVec.toInt_ofNat]
    exact BitVec.toInt_lt
  · rw [sext_eq_bmod n v hn]
    exact_mod_cast Int.bmod_emod

end Sys2Proof.Machine
end

section
/-! SUPPORT. The non-negative binary32 numbers in the order of their patterns, and widening a binary16 pattern (40_primitives R103,
R109). -/

namespace Sys2Proof.Machine

/-! ## Patterns in order -/

/-- The exponent field of the gap between the pattern `p` and the next: the patterns of the subnormals share that of the least
normal numbers. -/
def gapExp (p : Nat) : Nat := max 1 (p / 2 ^ 23)

/-- The distance from the number with the pattern `p` to the next. -/
def gap (p : Nat) : ℚ := 2 ^ ((gapExp p : ℤ) - 150)

/-- The number with the non-negative pattern `p`, as a multiple of its gap. The gaps go on above the patterns of binary32, so no
proof needs a bound on `p`. -/
def patternValue (p : Nat) : ℚ := (p - (gapExp p - 1) * 2 ^ 23 : Nat) * gap p

theorem gap_pos (p : Nat) : 0 < gap p := zpow_pos (by norm_num) _

section Units
variable {e m : Nat}

/-- `m` units at the exponent field `e`, where `m` has its leading bit at bit 23 or `e` is the least. -/
theorem gapExp_of_units (he : 1 ≤ e) (hm : m < 2 ^ 24) (hnorm : e = 1 ∨ 2 ^ 23 ≤ m) : gapExp ((e - 1) * 2 ^ 23 + m) = e := by
  unfold gapExp
  omega

theorem gap_of_units (he : 1 ≤ e) (hm : m < 2 ^ 24) (hnorm : e = 1 ∨ 2 ^ 23 ≤ m) :
    gap ((e - 1) * 2 ^ 23 + m) = 2 ^ ((e : ℤ) - 150) := by
  rw [gap, gapExp_of_units he hm hnorm]

/-- The units of a pattern count on from `2 ^ 23`. With `2 ^ 24` of them the pattern is the least of the next exponent, where half
as many are twice as large. -/
theorem patternValue_of_units (he : 1 ≤ e) (hm : m ≤ 2 ^ 24) (hnorm : e = 1 ∨ 2 ^ 23 ≤ m) :
    patternValue ((e - 1) * 2 ^ 23 + m) = m * 2 ^ ((e : ℤ) - 150) := by
  rcases hm.lt_or_eq with hm | rfl
  · rw [patternValue, gap_of_units he hm hnorm, gapExp_of_units he hm hnorm, Nat.add_sub_cancel_left]
  · have hnext : (e - 1) * 2 ^ 23 + 2 ^ 24 = (e + 1 - 1) * 2 ^ 23 + 2 ^ 23 := by omega
    rw [hnext, patternValue, gap_of_units (by omega) (by decide) (.inr le_rfl),
      gapExp_of_units (by omega) (by decide) (.inr le_rfl), Nat.add_sub_cancel_left]
    push_cast
    rw [add_sub_right_comm, zpow_add_one₀ two_ne_zero]
    ring

end Units

theorem exists_units (p : Nat) : ∃ e m, 1 ≤ e ∧ m < 2 ^ 24 ∧ (e = 1 ∨ 2 ^ 23 ≤ m) ∧ p = (e - 1) * 2 ^ 23 + m :=
  ⟨gapExp p, p - (gapExp p - 1) * 2 ^ 23, by unfold gapExp; omega⟩

theorem patternValue_succ (p : Nat) : patternValue (p + 1) = patternValue p + gap p := by
  obtain ⟨e, m, he, hm, hnorm, rfl⟩ := exists_units p
  rw [add_assoc, patternValue_of_units he hm (by omega), patternValue_of_units he hm.le hnorm, gap_of_units he hm hnorm]
  push_cast
  ring

theorem patternValue_strictMono : StrictMono patternValue :=
  strictMono_nat_of_lt_succ fun p => by
    rw [patternValue_succ]
    exact lt_add_of_pos_right _ (gap_pos p)

/-- The pattern of 1.0. -/
theorem patternValue_one : patternValue 0x3F800000 = 1 := by
  have h := patternValue_of_units (e := 127) (m := 2 ^ 23) (by decide) (by decide) (by decide)
  norm_num at h
  exact h

/-! ## Words of binary32 -/

section Word
variable {s p : Nat}

theorem toNat_signed (hs : s < 2) (hp : p < 2 ^ 31) : (BitVec.ofNat 32 (s * 2 ^ 31 + p)).toNat = s * 2 ^ 31 + p := by
  rw [BitVec.toNat_ofNat, Nat.mod_eq_of_lt]
  omega

theorem f32Exp_signed (hs : s < 2) (hp : p < 2 ^ 31) : f32Exp (BitVec.ofNat 32 (s * 2 ^ 31 + p)) = p / 2 ^ 23 := by
  rw [f32Exp, toNat_signed hs hp]
  omega

/-- The value of a word by its sign and the number with the rest as its pattern. -/
theorem f32Value_signed (hs : s < 2) (hp : p < 2 ^ 31) :
    f32Value (BitVec.ofNat 32 (s * 2 ^ 31 + p)) = (-1) ^ s * patternValue p := by
  have hfrac : (s * 2 ^ 31 + p) % 2 ^ 23 = p % 2 ^ 23 := by omega
  have hsign : (s * 2 ^ 31 + p) / 2 ^ 31 = s := by omega
  have hmag : patternValue p = if p / 2 ^ 23 = 0 then (p % 2 ^ 23 : Nat) * (2 : ℚ) ^ (-149 : ℤ)
      else (2 ^ 23 + (p % 2 ^ 23 : Nat)) * (2 : ℚ) ^ (((p / 2 ^ 23 : Nat) : ℤ) - 150) := by
    split_ifs with h
    · have hp : p = (1 - 1) * 2 ^ 23 + p % 2 ^ 23 := by omega
      conv_lhs => rw [hp, patternValue_of_units le_rfl (by omega) (.inl rfl)]
      norm_num
    · have hp : p = (p / 2 ^ 23 - 1) * 2 ^ 23 + (2 ^ 23 + p % 2 ^ 23) := by omega
      conv_lhs => rw [hp, patternValue_of_units (by omega) (by omega) (.inr (Nat.le_add_right _ _))]
      push_cast
      rfl
  simp only [f32Value, f32Exp_signed hs hp, toNat_signed hs hp, hfrac, hsign, ← hmag]
  interval_cases s <;> simp

theorem f32Exp_units {e m : Nat} (hs : s < 2) (he : 1 ≤ e) (he' : e ≤ 255) (hlo : 2 ^ 23 ≤ m) (hhi : m < 2 ^ 24) :
    f32Exp (BitVec.ofNat 32 (s * 2 ^ 31 + ((e - 1) * 2 ^ 23 + m))) = e := by
  rw [f32Exp_signed hs (by omega)]
  omega

theorem f32Value_units {e m : Nat} (hs : s < 2) (he : 1 ≤ e) (he' : e ≤ 255) (hlo : 2 ^ 23 ≤ m) (hhi : m < 2 ^ 24) :
    f32Value (BitVec.ofNat 32 (s * 2 ^ 31 + ((e - 1) * 2 ^ 23 + m))) = (-1) ^ s * (m * 2 ^ ((e : ℤ) - 150)) := by
  rw [f32Value_signed hs (by omega), patternValue_of_units he hhi.le (.inr hlo)]

theorem f32Value_eq_patternValue {c : F32} (hc : c.toNat < 2 ^ 31) : f32Value c = patternValue c.toNat := by
  have h := f32Value_signed (s := 0) (by decide) hc
  simpa using h

end Word

/-! ## Widening a binary16 pattern -/

/-- The magnitude `halfToFloat` gives a binary16 pattern with the exponent `e` and the fraction `f` (R103). -/
def halfMagnitude (e f : Nat) : Nat :=
  if e = 0 then
    if f = 0 then 0 else (f.log2 + 103) * 2 ^ 23 + (f - 2 ^ f.log2) * 2 ^ (23 - f.log2)
  else if e = 31 then 255 * 2 ^ 23 + f * 2 ^ 13
  else (e + 112) * 2 ^ 23 + f * 2 ^ 13

theorem halfToFloat_eq (h : Word16) : halfToFloat h =
    BitVec.ofNat 32 (h.toNat / 2 ^ 15 * 2 ^ 31 + halfMagnitude (h.toNat / 2 ^ 10 % 2 ^ 5) (h.toNat % 2 ^ 10)) := rfl

/-- The leading one of a subnormal half, at bit `log2 f`, moves up to bit 23: `f * 2 ^ (23 - log2 f)` units. -/
theorem halfMagnitude_subnormal {f : Nat} (hf0 : f ≠ 0) (hf : f < 2 ^ 10) :
    2 ^ 23 ≤ f * 2 ^ (23 - f.log2) ∧ f * 2 ^ (23 - f.log2) < 2 ^ 24 ∧
    halfMagnitude 0 f = (f.log2 + 103 - 1) * 2 ^ 23 + f * 2 ^ (23 - f.log2) := by
  have hlog : f.log2 < 10 := (Nat.log2_lt hf0).mpr hf
  have hone : 2 ^ f.log2 * 2 ^ (23 - f.log2) = 2 ^ 23 := by
    rw [← pow_add]
    congr 1
    omega
  have hlo : 2 ^ 23 ≤ f * 2 ^ (23 - f.log2) := hone ▸ Nat.mul_le_mul_right _ (Nat.log2_self_le hf0)
  have hhi : f * 2 ^ (23 - f.log2) < 2 ^ (f.log2 + 1) * 2 ^ (23 - f.log2) :=
    Nat.mul_lt_mul_of_pos_right Nat.lt_log2_self (Nat.two_pow_pos _)
  rw [pow_succ, mul_right_comm, hone] at hhi
  refine ⟨hlo, hhi, ?_⟩
  rw [halfMagnitude, if_pos rfl, if_neg hf0, Nat.sub_mul, hone]
  omega

theorem halfMagnitude_normal {e f : Nat} (he : 1 ≤ e) (he' : e ≤ 30) :
    halfMagnitude e f = (e + 112 - 1) * 2 ^ 23 + (2 ^ 10 + f) * 2 ^ 13 := by
  rw [halfMagnitude, if_neg (by omega), if_neg (by omega)]
  omega

theorem halfMagnitude_lt {e f : Nat} (he : e < 2 ^ 5) (hf : f < 2 ^ 10) : halfMagnitude e f < 2 ^ 31 := by
  rcases Nat.eq_zero_or_pos e with rfl | hpos
  · rcases Nat.eq_zero_or_pos f with rfl | hf0
    · decide
    · obtain ⟨-, hhi, hmag⟩ := halfMagnitude_subnormal hf0.ne' hf
      have hlog : f.log2 < 10 := (Nat.log2_lt hf0.ne').mpr hf
      omega
  · unfold halfMagnitude
    split_ifs <;> omega

theorem halfMagnitude_zero : halfMagnitude 0 0 = 0 := rfl

theorem halfMagnitude_infinity_nan (f : Nat) : halfMagnitude 31 f = 0x7F800000 + f * 2 ^ 13 := rfl

section Half
variable {s e f : Nat}

theorem f32_subnormal_half (hs : s < 2) (hf0 : f ≠ 0) (hf : f < 2 ^ 10) :
    f32Exp (BitVec.ofNat 32 (s * 2 ^ 31 + halfMagnitude 0 f)) = f.log2 + 103 ∧
    f32Value (BitVec.ofNat 32 (s * 2 ^ 31 + halfMagnitude 0 f)) = (-1) ^ s * f * (2 : ℚ) ^ (-24 : ℤ) := by
  have hlog : f.log2 < 10 := (Nat.log2_lt hf0).mpr hf
  obtain ⟨hlo, hhi, hmag⟩ := halfMagnitude_subnormal hf0 hf
  obtain ⟨j, hj⟩ : ∃ j, 23 - f.log2 = j := ⟨_, rfl⟩
  have hscale : (2 : ℚ) ^ j * 2 ^ (((f.log2 + 103 : Nat) : ℤ) - 150) = 2 ^ (-24 : ℤ) := by
    rw [← zpow_natCast, ← zpow_add₀ two_ne_zero]
    congr 1
    omega
  rw [hj] at hlo hhi hmag
  rw [hmag, f32Exp_units hs (by omega) (by omega) hlo hhi, f32Value_units hs (by omega) (by omega) hlo hhi, ← hscale]
  refine ⟨rfl, ?_⟩
  push_cast
  ring

theorem f32_normal_half (hs : s < 2) (he : 1 ≤ e) (he' : e ≤ 30) (hf : f < 2 ^ 10) :
    f32Exp (BitVec.ofNat 32 (s * 2 ^ 31 + halfMagnitude e f)) = e + 112 ∧
    f32Value (BitVec.ofNat 32 (s * 2 ^ 31 + halfMagnitude e f)) = (-1) ^ s * (1 + (f : ℚ) / 1024) * 2 ^ ((e : ℤ) - 15) := by
  have hscale : (2 : ℚ) ^ (((e + 112 : Nat) : ℤ) - 150) = 2 ^ ((e : ℤ) - 15) * 2 ^ (-23 : ℤ) := by
    rw [← zpow_add₀ two_ne_zero]
    congr 1
    omega
  rw [halfMagnitude_normal he he', f32Exp_units hs (by omega) (by omega) (by omega) (by omega),
    f32Value_units hs (by omega) (by omega) (by omega) (by omega), hscale]
  refine ⟨rfl, ?_⟩
  push_cast
  norm_num
  ring

end Half

/-- Settles O32: a half with a value becomes a word whose exponent and units have that value; the other cases are read off. -/
theorem halfToFloatIsExact : Obligations.HalfToFloatIsExact := by
  refine ⟨fun h => ?_, by decide +kernel, by decide +kernel, ?_⟩
  · have hs : h.toNat / 2 ^ 15 < 2 := by omega
    have he : h.toNat / 2 ^ 10 % 2 ^ 5 < 2 ^ 5 := Nat.mod_lt _ (by decide)
    have hf : h.toNat % 2 ^ 10 < 2 ^ 10 := Nat.mod_lt _ (by decide)
    rw [halfToFloat_eq]
    generalize h.toNat / 2 ^ 15 = s, h.toNat / 2 ^ 10 % 2 ^ 5 = e, h.toNat % 2 ^ 10 = f at *
    have hword := toNat_signed hs (halfMagnitude_lt he hf)
    refine ⟨?_, ?_, ?_, ?_, ?_⟩
    · have hmag := halfMagnitude_lt he hf
      rw [hword]
      omega
    · rintro rfl rfl
      rw [hword, halfMagnitude_zero, add_zero]
    · rintro rfl hf0
      obtain ⟨hexp, hvalue⟩ := f32_subnormal_half hs hf0 hf
      have hlog : f.log2 < 10 := (Nat.log2_lt hf0).mpr hf
      exact ⟨by omega, by omega, hvalue⟩
    · intro hlo hhi
      obtain ⟨hexp, hvalue⟩ := f32_normal_half hs hlo hhi hf
      exact ⟨by omega, hvalue⟩
    · rintro rfl
      rw [hword, halfMagnitude_infinity_nan, add_assoc]
  · have hvalue := (f32_subnormal_half (s := 0) (f := 1) (by decide) (by decide) (by decide)).2
    simpa [halfToFloat_eq] using hvalue

end Sys2Proof.Machine
end

section
/-! SUPPORT. Rounding an exact value to binary32: where it lies between two neighbours, and what each setting of `toF32` makes of it
(40_primitives R104, R105; log 10). -/

namespace Sys2Proof.Machine

section Rounding
variable {q q' : Frac}

/-! ## The gap of a value -/

/-- The exponent of a positive value, `log2 num - c` for `c = log2 den` or one more: `2 ^ (log2 num - c)` is the largest power of two
not above it. -/
theorem expField_of_pos (hnum : 0 < q.num) (hden : 0 < q.den) :
    ∃ c, expField q = max 1 (q.num.log2 + 127 - c) ∧
      q.num * 2 ^ c < q.den * 2 ^ (q.num.log2 + 1) ∧ q.den * 2 ^ q.num.log2 ≤ q.num * 2 ^ c := by
  have hnum_hi : q.num < 2 ^ (q.num.log2 + 1) := Nat.lt_log2_self
  have hden_hi : q.den < 2 ^ (q.den.log2 + 1) := Nat.lt_log2_self
  refine ⟨q.den.log2 + if q.num * 2 ^ q.den.log2 < q.den * 2 ^ q.num.log2 then 1 else 0, by rw [expField, if_neg hnum.ne'], ?_⟩
  split_ifs with h
  · refine ⟨by rw [pow_succ, pow_succ, ← mul_assoc, ← mul_assoc]; omega, ?_⟩
    rw [mul_comm q.num]
    exact Nat.mul_le_mul hden_hi.le (Nat.log2_self_le hnum.ne')
  · refine ⟨?_, Nat.le_of_not_lt h⟩
    rw [mul_comm q.den]
    exact Nat.mul_lt_mul_of_lt_of_le hnum_hi (Nat.log2_self_le hden.ne') hden

/-- A value is below `2 ^ (E - 126)`, where `E` is its exponent field, and not below `2 ^ (E - 127)` unless `E` is the least. -/
theorem expField_bounds (hden : 0 < q.den) :
    1 ≤ expField q ∧ q.num * 2 ^ 126 < q.den * 2 ^ expField q ∧
    (expField q = 1 ∨ q.den * 2 ^ expField q ≤ q.num * 2 ^ 127) := by
  rcases Nat.eq_zero_or_pos q.num with hnum | hnum
  · simp [expField, hnum, hden]
  · obtain ⟨c, he, hlt, hle⟩ := expField_of_pos hnum hden
    generalize q.num.log2 = a at *
    refine ⟨by omega, ?_, ?_⟩
    · refine lt_of_mul_lt_mul_right (a := 2 ^ c) ?_ (Nat.zero_le _)
      calc q.num * 2 ^ 126 * 2 ^ c = q.num * 2 ^ c * 2 ^ 126 := mul_right_comm ..
        _ < q.den * 2 ^ (a + 1) * 2 ^ 126 := Nat.mul_lt_mul_of_pos_right hlt (Nat.two_pow_pos _)
        _ = q.den * 2 ^ (a + 127) := by rw [mul_assoc, ← pow_add]
        _ ≤ q.den * 2 ^ (expField q + c) := Nat.mul_le_mul_left _ (Nat.pow_le_pow_right two_pos (by omega))
        _ = q.den * 2 ^ expField q * 2 ^ c := by rw [pow_add, mul_assoc]
    · rcases Nat.eq_or_lt_of_le (show 1 ≤ expField q by omega) with h | h
      · exact .inl h.symm
      · refine .inr (le_of_mul_le_mul_right (a := 2 ^ c) ?_ (Nat.two_pow_pos _))
        calc q.den * 2 ^ expField q * 2 ^ c = q.den * 2 ^ (a + 127) := by
              rw [mul_assoc, ← pow_add]
              congr 2
              omega
          _ = q.den * 2 ^ a * 2 ^ 127 := by rw [pow_add, mul_assoc]
          _ ≤ q.num * 2 ^ c * 2 ^ 127 := Nat.mul_le_mul_right _ hle
          _ = q.num * 2 ^ 127 * 2 ^ c := mul_right_comm ..

/-- A value in units of the last place of its neighbours. -/
theorem fracValue_eq_units (hden : 0 < q.den) :
    fracValue q = (ulpNum q : ℚ) / ulpDen q * 2 ^ ((expField q : ℤ) - 150) := by
  have hscale : (2 : ℚ) ^ (150 - expField q) * 2 ^ ((expField q : ℤ) - 150) = 2 ^ (expField q - 150) := by
    rw [← zpow_natCast, ← zpow_natCast, ← zpow_add₀ two_ne_zero]
    congr 1
    omega
  have hden' : (q.den : ℚ) ≠ 0 := by positivity
  have hpow : (2 : ℚ) ^ (expField q - 150) ≠ 0 := by positivity
  rw [fracValue, ulpNum, ulpDen]
  push_cast
  rw [div_mul_eq_mul_div, mul_assoc, hscale, mul_div_mul_right _ _ hpow]

theorem ulpDen_pos (hden : 0 < q.den) : 0 < ulpDen q := Nat.mul_pos hden (Nat.two_pow_pos _)

/-- The whole units of a value are those of a pattern with the exponent field of the value. -/
theorem units_bounds (hden : 0 < q.den) :
    ulpNum q / ulpDen q < 2 ^ 24 ∧ (expField q = 1 ∨ 2 ^ 23 ≤ ulpNum q / ulpDen q) := by
  obtain ⟨-, hlt, hle⟩ := expField_bounds hden
  have hscale {i j : Nat} (hij : i + j = 150) :
      q.den * 2 ^ expField q * 2 ^ (150 - expField q) = ulpDen q * 2 ^ i * 2 ^ j := by
    rw [ulpDen]
    simp only [mul_assoc, ← pow_add]
    congr 2
    omega
  have hpos : 0 < 2 ^ (150 - expField q) := Nat.two_pow_pos _
  rw [Nat.div_lt_iff_lt_mul (ulpDen_pos hden), Nat.le_div_iff_mul_le (ulpDen_pos hden), mul_comm (2 ^ 24), mul_comm (2 ^ 23)]
  refine ⟨?_, hle.imp_right fun hle => ?_⟩
  · have h := Nat.mul_lt_mul_of_pos_right hlt hpos
    rw [hscale (i := 24) (j := 126) rfl, mul_right_comm q.num, ← ulpNum] at h
    exact lt_of_mul_lt_mul_right h (Nat.zero_le _)
  · have h := Nat.mul_le_mul_right (2 ^ (150 - expField q)) hle
    rw [hscale (i := 23) (j := 127) rfl, mul_right_comm q.num, ← ulpNum] at h
    exact le_of_mul_le_mul_right h (Nat.two_pow_pos _)

/-- Where a value lies in its gap, as a fraction of the gap. -/
def gapFraction (q : Frac) : ℚ := (ulpNum q % ulpDen q : Nat) / ulpDen q

theorem gapFraction_nonneg (q : Frac) : 0 ≤ gapFraction q := by
  unfold gapFraction
  positivity

theorem gapFraction_lt_one (hden : 0 < q.den) : gapFraction q < 1 := by
  have hpos : (0 : ℚ) < ulpDen q := by exact_mod_cast ulpDen_pos hden
  rw [gapFraction, div_lt_one hpos]
  exact_mod_cast Nat.mod_lt _ (ulpDen_pos hden)

/-- A value is the number at its floor pattern and its fraction of the gap above. -/
theorem fracValue_eq_floor_add (hden : 0 < q.den) :
    fracValue q = patternValue (floorPattern q) + gapFraction q * gap (floorPattern q) := by
  obtain ⟨hlt, hnorm⟩ := units_bounds hden
  have he := (expField_bounds hden).1
  have hpos : (ulpDen q : ℚ) ≠ 0 := by exact_mod_cast (ulpDen_pos hden).ne'
  have hdivmod : (ulpNum q : ℚ) = (ulpNum q / ulpDen q : Nat) * ulpDen q + (ulpNum q % ulpDen q : Nat) := by
    exact_mod_cast (Nat.div_add_mod' (ulpNum q) (ulpDen q)).symm
  rw [fracValue_eq_units hden, floorPattern, patternValue_of_units he hlt.le hnorm, gap_of_units he hlt hnorm, gapFraction, ← add_mul,
    hdivmod]
  congr 1
  rw [add_div, mul_div_cancel_right₀ _ hpos]

/-- A pattern is not above the floor pattern of a value just if its number is not above the value. -/
theorem le_floorPattern_iff (hden : 0 < q.den) {p : Nat} : p ≤ floorPattern q ↔ patternValue p ≤ fracValue q := by
  have hv := fracValue_eq_floor_add hden
  have hgap := gap_pos (floorPattern q)
  constructor
  · intro h
    have hp := patternValue_strictMono.monotone h
    have hpos := mul_nonneg (gapFraction_nonneg q) hgap.le
    linarith
  · intro h
    have hlt : gapFraction q * gap (floorPattern q) < gap (floorPattern q) := by
      nlinarith [gapFraction_lt_one hden]
    have hnext := patternValue_succ (floorPattern q)
    exact Nat.le_of_lt_succ (patternValue_strictMono.lt_iff_lt.mp (by linarith))

theorem floorPattern_mono (hden : 0 < q.den) (hden' : 0 < q'.den) (h : fracValue q ≤ fracValue q') :
    floorPattern q ≤ floorPattern q' :=
  (le_floorPattern_iff hden').mpr (((le_floorPattern_iff hden).mp le_rfl).trans h)

theorem gapFraction_mono (hden : 0 < q.den) (hden' : 0 < q'.den) (hfloor : floorPattern q = floorPattern q')
    (h : fracValue q ≤ fracValue q') : gapFraction q ≤ gapFraction q' := by
  rw [fracValue_eq_floor_add hden, fracValue_eq_floor_add hden', ← hfloor] at h
  exact le_of_mul_le_mul_right (le_of_add_le_add_left h) (gap_pos _)

/-! ## When a setting rounds up -/

theorem rne32Up_iff (hden : 0 < q.den) :
    rne32Up q = true ↔ 1 / 2 < gapFraction q ∨ gapFraction q = 1 / 2 ∧ floorPattern q % 2 = 1 := by
  have hpos : (0 : ℚ) < ulpDen q := by exact_mod_cast ulpDen_pos hden
  have hlt : 1 / 2 < gapFraction q ↔ ulpDen q < 2 * (ulpNum q % ulpDen q) := by
    rw [gapFraction, div_lt_div_iff₀ two_pos hpos, one_mul, mul_comm]
    exact_mod_cast Iff.rfl
  have heq : gapFraction q = 1 / 2 ↔ 2 * (ulpNum q % ulpDen q) = ulpDen q := by
    rw [gapFraction, div_eq_div_iff hpos.ne' two_ne_zero, one_mul, mul_comm]
    exact_mod_cast Iff.rfl
  simp only [rne32Up, hlt, heq, Bool.or_eq_true, Bool.and_eq_true, decide_eq_true_eq]

theorem fracValue_le_iff (hden : 0 < q.den) (hden' : 0 < q'.den) :
    fracValue q ≤ fracValue q' ↔ q.num * q'.den ≤ q'.num * q.den := by
  rw [fracValue, fracValue, div_le_div_iff₀ (by exact_mod_cast hden) (by exact_mod_cast hden')]
  exact_mod_cast Iff.rfl

theorem byteQuotient_den_pos (k : Nat) : 0 < (Frac.mk k 255).den := Nat.succ_pos 254

theorem byteQuotient_le_iff (hden : 0 < q.den) (k : Nat) : fracValue ⟨k, 255⟩ ≤ fracValue q ↔ k ≤ 255 * q.num / q.den := by
  rw [fracValue_le_iff (byteQuotient_den_pos k) hden, Nat.le_div_iff_mul_le hden, mul_comm 255]

theorem floorPattern_byteQuotient_mono : Monotone fun k => floorPattern ⟨k, 255⟩ := fun j k h =>
  floorPattern_mono (byteQuotient_den_pos j) (byteQuotient_den_pos k)
    ((fracValue_le_iff (byteQuotient_den_pos j) (byteQuotient_den_pos k)).mpr (Nat.mul_le_mul_right 255 h))

/-- Whether a byte quotient lies in the gap of a value is a question about the gap alone: if one does, then so does the nearest
below the value or the nearest above it. -/
theorem nearByteQuotient_iff (hden : 0 < q.den) :
    nearByteQuotient q = true ↔ ∃ k, floorPattern ⟨k, 255⟩ = floorPattern q := by
  simp only [nearByteQuotient, Bool.or_eq_true, decide_eq_true_eq]
  obtain ⟨n, hn⟩ : ∃ n, 255 * q.num / q.den = n := ⟨_, rfl⟩
  have hle (k : Nat) : fracValue ⟨k, 255⟩ ≤ fracValue q ↔ k ≤ n := hn ▸ byteQuotient_le_iff hden k
  rw [hn]
  constructor
  · rintro (h | h)
    · exact ⟨n, h⟩
    · exact ⟨n + 1, h⟩
  · rintro ⟨k, hk⟩
    rcases Nat.lt_or_ge n k with h | h
    · have habove := (lt_of_not_ge (mt (hle (n + 1)).mp (Nat.not_succ_le_self n))).le
      exact .inr (le_antisymm ((floorPattern_byteQuotient_mono h).trans hk.le)
        (floorPattern_mono hden (byteQuotient_den_pos _) habove))
    · exact .inl (le_antisymm (floorPattern_mono (byteQuotient_den_pos _) hden ((hle n).mpr le_rfl))
        (hk.ge.trans (floorPattern_byteQuotient_mono h)))

theorem faithfulUp_iff (hden : 0 < q.den) (hfar : nearByteQuotient q = false) :
    faithfulUp q = true ↔ gapFraction q ≠ 0 ∧
      ((Config.roundCut (floorPattern q)).1 : ℚ) / ((Config.roundCut (floorPattern q)).2 + 1) ≤ gapFraction q := by
  have hpos : (0 : ℚ) < ulpDen q := by exact_mod_cast ulpDen_pos hden
  have hzero : gapFraction q ≠ 0 ↔ ulpNum q % ulpDen q ≠ 0 := by
    rw [gapFraction, Ne, div_eq_zero_iff, or_iff_left hpos.ne', Nat.cast_eq_zero]
  rw [hzero, gapFraction, div_le_div_iff₀ (Nat.cast_add_one_pos _) hpos]
  simp only [faithfulUp, hfar, Bool.false_eq_true, if_false, Bool.and_eq_true, decide_eq_true_eq]
  exact_mod_cast Iff.rfl

theorem roundsUp_of_near {m : ToF32} (hnear : nearByteQuotient q = true) : roundsUp m q = rne32Up q := by
  cases m with
  | rne32 => rfl
  | anyFaithful => exact if_pos hnear

/-- No setting leaves a number of binary32. -/
theorem gapFraction_pos_of_roundsUp (hden : 0 < q.den) {m : ToF32} (h : roundsUp m q = true) : 0 < gapFraction q := by
  have hrne (hup : rne32Up q = true) : 0 < gapFraction q := by
    rcases (rne32Up_iff hden).mp hup with hlt | ⟨heq, -⟩ <;> linarith
  cases m with
  | rne32 => exact hrne h
  | anyFaithful =>
    cases hnear : nearByteQuotient q with
    | true => exact hrne (roundsUp_of_near hnear ▸ h)
    | false => exact (gapFraction_nonneg q).lt_of_ne' ((faithfulUp_iff hden hnear).mp h).1

/-- In one gap, what is rounded up stays rounded up as the value rises. -/
theorem roundsUp_mono (hden : 0 < q.den) (hden' : 0 < q'.den) (hfloor : floorPattern q = floorPattern q')
    (h : fracValue q ≤ fracValue q') {m : ToF32} (hup : roundsUp m q = true) : roundsUp m q' = true := by
  have hfraction := gapFraction_mono hden hden' hfloor h
  have hpos := gapFraction_pos_of_roundsUp hden hup
  have hrne (hup : rne32Up q = true) : rne32Up q' = true := by
    rw [rne32Up_iff hden] at hup
    rw [rne32Up_iff hden', ← hfloor]
    rcases hup with hlt | ⟨heq, hodd⟩
    · exact .inl (hlt.trans_le hfraction)
    · exact (heq.ge.trans hfraction).lt_or_eq.imp id fun h => ⟨h.symm, hodd⟩
  have hnear : nearByteQuotient q = nearByteQuotient q' := by
    rw [Bool.eq_iff_iff, nearByteQuotient_iff hden, nearByteQuotient_iff hden', hfloor]
  cases m with
  | rne32 => exact hrne hup
  | anyFaithful =>
    cases hq : nearByteQuotient q with
    | true =>
      rw [roundsUp_of_near (hnear ▸ hq)]
      exact hrne (roundsUp_of_near hq ▸ hup)
    | false =>
      have hcut := ((faithfulUp_iff hden hq).mp hup).2
      exact (faithfulUp_iff hden' (hnear ▸ hq)).mpr ⟨(hpos.trans_le hfraction).ne', hfloor ▸ hcut.trans hfraction⟩

/-! ## The pattern a value is rounded to -/

/-- The pattern of `toF32 m q`, where it lies within binary32. -/
def roundedPattern (m : ToF32) (q : Frac) : Nat := floorPattern q + if roundsUp m q then 1 else 0

variable {m : ToF32}

theorem floorPattern_le_roundedPattern : floorPattern q ≤ roundedPattern m q := Nat.le_add_right _ _

theorem le_roundedPattern (hden : 0 < q.den) {p : Nat} (h : patternValue p ≤ fracValue q) : p ≤ roundedPattern m q :=
  ((le_floorPattern_iff hden).mpr h).trans floorPattern_le_roundedPattern

/-- A number not below the value is not below what the value is rounded to: a value that is rounded up is above its floor. -/
theorem roundedPattern_le (hden : 0 < q.den) {p : Nat} (h : fracValue q ≤ patternValue p) : roundedPattern m q ≤ p := by
  have hv := fracValue_eq_floor_add hden
  have hgap := gap_pos (floorPattern q)
  unfold roundedPattern
  split_ifs with hup
  · have hpos := mul_pos (gapFraction_pos_of_roundsUp hden hup) hgap
    exact Nat.succ_le_of_lt (patternValue_strictMono.lt_iff_lt.mp (by linarith))
  · have hpos := mul_nonneg (gapFraction_nonneg q) hgap.le
    exact patternValue_strictMono.le_iff_le.mp (by rw [add_zero]; linarith)

theorem roundedPattern_of_eq (hden : 0 < q.den) {p : Nat} (h : patternValue p = fracValue q) : roundedPattern m q = p :=
  le_antisymm (roundedPattern_le hden h.ge) (le_roundedPattern hden h.le)

theorem roundedPattern_mono (hden : 0 < q.den) (hden' : 0 < q'.den) (h : fracValue q ≤ fracValue q') :
    roundedPattern m q ≤ roundedPattern m q' := by
  rcases (floorPattern_mono hden hden' h).lt_or_eq with hlt | heq
  · unfold roundedPattern
    split_ifs <;> omega
  · by_cases hup : roundsUp m q = true
    · rw [roundedPattern, roundedPattern, if_pos hup, if_pos (roundsUp_mono hden hden' heq h hup), heq]
    · rw [roundedPattern, if_neg hup, add_zero]
      exact heq.le.trans floorPattern_le_roundedPattern

/-- What a value is rounded to does not depend on how it is written. -/
theorem roundedPattern_congr (hden : 0 < q.den) (hden' : 0 < q'.den) (h : fracValue q = fracValue q') :
    roundedPattern m q = roundedPattern m q' :=
  le_antisymm (roundedPattern_mono hden hden' h.le) (roundedPattern_mono hden' hden h.ge)

/-- At a byte quotient every setting rounds as `rne32` does. -/
theorem roundedPattern_byteQuotient (hden : 0 < q.den) {k : Nat} (h : fracValue q = fracValue ⟨k, 255⟩) :
    roundedPattern m q = roundedPattern .rne32 q := by
  have hfloor : floorPattern ⟨k, 255⟩ = floorPattern q :=
    le_antisymm (floorPattern_mono (byteQuotient_den_pos k) hden h.ge) (floorPattern_mono hden (byteQuotient_den_pos k) h.le)
  have hnear := (nearByteQuotient_iff hden).mpr ⟨k, hfloor⟩
  rw [roundedPattern, roundedPattern, roundsUp_of_near hnear, roundsUp_of_near hnear]

/-- `rne32` rounds up where the number above is nearer, and where both are as near and the number below has an odd pattern. -/
theorem rne32Up_iff_nearer (hden : 0 < q.den) : rne32Up q = true ↔
    patternValue (floorPattern q + 1) - fracValue q < fracValue q - patternValue (floorPattern q) ∨
    patternValue (floorPattern q + 1) - fracValue q = fracValue q - patternValue (floorPattern q) ∧ floorPattern q % 2 = 1 := by
  have hgap := gap_pos (floorPattern q)
  have hbelow : fracValue q - patternValue (floorPattern q) = gapFraction q * gap (floorPattern q) := by
    rw [fracValue_eq_floor_add hden, add_sub_cancel_left]
  have habove : patternValue (floorPattern q + 1) - fracValue q = (1 - gapFraction q) * gap (floorPattern q) := by
    rw [fracValue_eq_floor_add hden, patternValue_succ]
    ring
  have hlt : 1 - gapFraction q < gapFraction q ↔ 1 / 2 < gapFraction q := by constructor <;> intro h <;> linarith
  have heq : 1 - gapFraction q = gapFraction q ↔ gapFraction q = 1 / 2 := by constructor <;> intro h <;> linarith
  rw [rne32Up_iff hden, hbelow, habove, mul_lt_mul_iff_left₀ hgap, mul_left_inj' hgap.ne', hlt, heq]

theorem le_and_eq_imp_of_lt {a b : ℚ} {P : Prop} (h : a < b) : a ≤ b ∧ (a = b → P) := ⟨h.le, fun heq => absurd heq h.ne⟩

/-- No number is nearer to a value than the one `rne32` rounds it to, and where another is as near the pattern is even. -/
theorem rne32_nearest (hden : 0 < q.den) {p : Nat} (hp : p ≠ roundedPattern .rne32 q) :
    |patternValue (roundedPattern .rne32 q) - fracValue q| ≤ |patternValue p - fracValue q| ∧
    (|patternValue (roundedPattern .rne32 q) - fracValue q| = |patternValue p - fracValue q| →
      roundedPattern .rne32 q % 2 = 0) := by
  have hup := rne32Up_iff_nearer hden
  have hfloor : patternValue (floorPattern q) ≤ fracValue q := (le_floorPattern_iff hden).mp le_rfl
  have hceil : fracValue q < patternValue (floorPattern q + 1) :=
    lt_of_not_ge (mt (le_floorPattern_iff hden).mpr (Nat.not_succ_le_self _))
  rw [roundedPattern, roundsUp] at hp ⊢
  generalize floorPattern q = lo at *
  split_ifs at hp ⊢ with h
  · rw [hup] at h
    rw [abs_of_pos (sub_pos.mpr hceil)]
    rcases Nat.lt_or_gt_of_ne hp with hbelow | habove
    · have hple := patternValue_strictMono.monotone (Nat.le_of_lt_succ hbelow)
      rw [abs_of_nonpos (by linarith)]
      rcases h with hnearer | ⟨hmiddle, hodd⟩
      · exact le_and_eq_imp_of_lt (by linarith)
      · exact ⟨by linarith, fun _ => by omega⟩
    · have hplt := patternValue_strictMono habove
      rw [abs_of_pos (by linarith)]
      exact le_and_eq_imp_of_lt (by linarith)
  · rw [hup, not_or, not_lt, not_and, Nat.mod_two_not_eq_one] at h
    obtain ⟨hnearer, heven⟩ := h
    rw [add_zero] at hp ⊢
    rw [abs_of_nonpos (sub_nonpos.mpr hfloor), neg_sub]
    rcases Nat.lt_or_gt_of_ne hp with hbelow | habove
    · have hplt := patternValue_strictMono hbelow
      rw [abs_of_neg (by linarith)]
      exact le_and_eq_imp_of_lt (by linarith)
    · have hple : patternValue (lo + 1) ≤ patternValue p := patternValue_strictMono.monotone habove
      rw [abs_of_pos (by linarith)]
      exact ⟨by linarith, fun heq => heven (by linarith)⟩

/-! ## The word -/

theorem toF32_eq_of_roundedPattern {m m' : ToF32} (h : roundedPattern m q = roundedPattern m' q') : toF32 m q = toF32 m' q' :=
  congrArg (fun p => BitVec.ofNat 32 (min 0x7F800000 p)) h

theorem fracValue_le_one (hden : 0 < q.den) (hle : q.num ≤ q.den) : fracValue q ≤ patternValue 0x3F800000 := by
  have h := (fracValue_le_iff (q := q) (q' := ⟨1, 1⟩) hden one_pos).mpr (by simpa using hle)
  simpa [fracValue, patternValue_one] using h

/-- On [0, 1] the word is the rounded pattern, at most that of 1.0. -/
theorem toNat_toF32 (hden : 0 < q.den) (hle : q.num ≤ q.den) :
    (toF32 m q).toNat = roundedPattern m q ∧ roundedPattern m q ≤ 0x3F800000 := by
  have hone := roundedPattern_le (m := m) hden (fracValue_le_one hden hle)
  refine ⟨?_, hone⟩
  rw [toF32, ← roundedPattern, BitVec.toNat_ofNat, min_eq_right (by omega), Nat.mod_eq_of_lt (by omega)]

end Rounding

/-- Settles O33: words of finite numbers are compared as patterns. -/
theorem defaultToF32RoundsToNearestEven : Obligations.DefaultToF32RoundsToNearestEven := by
  refine ⟨rfl, by decide +kernel, by decide +kernel, fun q hden hle => ?_⟩
  obtain ⟨hword, hone⟩ := toNat_toF32 (m := .rne32) hden hle
  refine ⟨hword ▸ hone, fun c hc hne => ?_⟩
  have hne' : c.toNat ≠ roundedPattern .rne32 q := fun h => hne (BitVec.eq_of_toNat_eq (h.trans hword.symm))
  rw [f32Value_eq_patternValue (c := c) (by omega), f32Value_eq_patternValue (c := toF32 _ _) (by omega), hword]
  exact rne32_nearest hden hne'

/-- Settles O34: each property is one of rounded patterns, in whose order the words and their values stand. -/
theorem toF32HasItsFourProperties : Obligations.ToF32HasItsFourProperties := by
  intro m q q' hden hle hden' hle'
  obtain ⟨hword, hone⟩ := toNat_toF32 (m := m) hden hle
  obtain ⟨hword', hone'⟩ := toNat_toF32 (m := m) hden' hle'
  have hvalue {c : F32} (hc : c.toNat ≤ 0x3F800000) : f32Value c = patternValue c.toNat :=
    f32Value_eq_patternValue (by omega)
  have hmono := patternValue_strictMono.monotone
  refine ⟨fun b hb h => ?_, fun h => ?_, ⟨hword ▸ hone, fun c hc => ⟨?_, ?_⟩⟩, fun k h => ⟨?_, ?_⟩⟩
  · rw [hvalue hb] at h
    exact BitVec.eq_of_toNat_eq (hword.trans (roundedPattern_of_eq hden h))
  · rw [hvalue (hword ▸ hone), hvalue (hword' ▸ hone'), hword, hword']
    have hle := roundedPattern_mono (m := m) hden hden' h
    exact ⟨hle, hmono hle⟩
  · rintro ⟨hlt, h⟩
    rw [hvalue hc] at hlt h
    rw [hvalue (hword ▸ hone), hword] at hlt
    exact (hmono (le_roundedPattern hden h)).not_gt hlt
  · rintro ⟨h, hlt⟩
    rw [hvalue hc] at hlt h
    rw [hvalue (hword ▸ hone), hword] at hlt
    exact (hmono (roundedPattern_le hden h)).not_gt hlt
  · exact toF32_eq_of_roundedPattern (roundedPattern_byteQuotient hden h)
  · exact toF32_eq_of_roundedPattern
      ((roundedPattern_byteQuotient hden h).trans (roundedPattern_congr hden (byteQuotient_den_pos k) h))

end Sys2Proof.Machine
end

section
/-! SUPPORT. A field of a field, the end of a request whose block is fetched, and the palettes of BC1 by their values (00_scope R10,
42_bc1_bc3). -/

namespace Sys2Proof.Machine

/-- A field of `v[hi:lo]` is the field of `v` that stands `lo` bits higher (R10). -/
theorem slice_slice (v : Nat) {hi lo hi' lo' : Nat} (h : lo + hi' ≤ hi) :
    slice (slice v hi lo) hi' lo' = slice v (lo + hi') (lo + lo') := by
  refine Nat.eq_of_testBit_eq fun k => ?_
  have hbound : lo' + k ≤ hi' → lo + (lo' + k) ≤ hi := by omega
  simp only [testBit_slice, Nat.add_assoc]
  by_cases hk : lo' + k ≤ hi' <;> simp [hk, hbound]

/-! ## The end of a request whose block is fetched -/

section Fetch

variable {s : State} {u : Nat} {q : Request} {rest : List Agent} {off size : Nat}

theorem fetch_responds (c : Config → Nat → Color) {blk : Nat} (hturn : s.turn = .serve u q rest)
    (hblk : s.memRead off size = some blk) :
    withBlock off size (fun blk s => respond (c s.cfg blk) s) s = .next (s.finish u q rest (.response (c s.cfg blk))) :=
  (withBlock_some hblk).trans (respond_serve _ hturn)

/-- The last byte of the block is outside the buffer, so the fetch faults (60_exceptions R302). -/
theorem fetch_faults {len : Nat} {k : Nat → State → Host.Outcome State Fault Refusal} (hsize : 0 < size)
    (hturn : s.turn = .serve u q rest) (hopen : s.launch = some len) (hout : len < off + size) :
    withBlock off size k s = .next (s.finish u q rest (.fault ⟨1, q.cmd, q.off, size⟩)) := by
  have hnone : s.memRead off size = none := memRead_eq_none hopen (k := size - 1) (by omega) (by omega)
  exact (withBlock_none hnone).trans (takeFault_serve _ _ hturn)

end Fetch

/-! ## The palettes -/

/-- Each colour of a blend is that blend of the expanded values (R151, R154, R155). -/
theorem rgbBlend_values (k0 k1 d c0 c1 : Nat) :
    fracValue (rgbBlend k0 k1 d c0 c1).r = (k0 * (slice c0 15 11 / 31) + k1 * (slice c1 15 11 / 31)) / d ∧
    fracValue (rgbBlend k0 k1 d c0 c1).g = (k0 * (slice c0 10 5 / 63) + k1 * (slice c1 10 5 / 63)) / d ∧
    fracValue (rgbBlend k0 k1 d c0 c1).b = (k0 * (slice c0 4 0 / 31) + k1 * (slice c1 4 0 / 31)) / d ∧
    fracValue (rgbBlend k0 k1 d c0 c1).a = 1 := by
  simp only [rgbBlend, fracValue]
  push_cast
  refine ⟨?_, ?_, ?_, ?_⟩ <;> ring

/-- Settles O37: each entry but transparent black is a blend, with the weights of R154 and R155. -/
theorem bc1PalettesAreExact : Obligations.Bc1PalettesAreExact := by
  intro c0 c1
  refine ⟨?_, ?_, ?_, ?_, ?_, ?_, ?_, ?_⟩
  · simpa [pal4] using rgbBlend_values 1 0 1 c0 c1
  · simpa [pal4] using rgbBlend_values 0 1 1 c0 c1
  · simpa [pal4] using rgbBlend_values 2 1 3 c0 c1
  · simpa [pal4] using rgbBlend_values 1 2 3 c0 c1
  · simpa [pal3] using rgbBlend_values 1 0 1 c0 c1
  · simpa [pal3] using rgbBlend_values 0 1 1 c0 c1
  · simpa [pal3] using rgbBlend_values 1 1 2 c0 c1
  · simp [pal3, fracValue]

/-! ## The entry of a pixel -/

theorem bc1Entry_eq_ite (alwaysFour : Bool) (p i : Nat) :
    bc1Entry alwaysFour p i =
      if alwaysFour = true ∨ slice p 15 0 > slice p 31 16 then
        pal4 (slice p 15 0) (slice p 31 16) (slice p (33 + 2 * i) (32 + 2 * i))
      else pal3 (slice p 15 0) (slice p 31 16) (slice p (33 + 2 * i) (32 + 2 * i)) := by
  simp only [bc1Entry, fourColour, Bool.or_eq_true, decide_eq_true_eq, gt_iff_lt]

/-- The pair of bits of column `x` in the byte of row `y` is the code of the pixel `i = 4y + x` (R153). -/
theorem bc1_code_in_row (blk : Nat) (x y : Coord) :
    slice (slice blk (39 + 8 * y.toNat) (32 + 8 * y.toNat)) (2 * x.toNat + 1) (2 * x.toNat) =
      slice blk (33 + 2 * pixelIndex x y) (32 + 2 * pixelIndex x y) := by
  have hhi : 32 + 8 * y.toNat + (2 * x.toNat + 1) = 33 + 2 * pixelIndex x y := by unfold pixelIndex; omega
  have hlo : 32 + 8 * y.toNat + 2 * x.toNat = 32 + 2 * pixelIndex x y := by unfold pixelIndex; omega
  rw [slice_slice blk (by omega), hhi, hlo]

theorem exec_decBc1 (x y : Coord) (off : Nat) (s : State) : exec (.decBc1 x y off) s =
    withBlock off 8 (fun blk s => respond (bc1Color s.cfg blk (pixelIndex x y)) s) s := rfl

/-- Settles O38: the fetch answers with `bc1Color` or faults, and the code is found in its row. -/
theorem decBc1Responds : Obligations.DecBc1Responds := by
  refine ⟨decodeRequest_cmdOf_format .bc1, fun s u q rest x y off hturn => ?_⟩
  rw [exec_decBc1]
  refine ⟨fun blk hblk => ⟨bc1_code_in_row blk x y, ?_⟩, fun len hopen hout => fetch_faults (by decide) hturn hopen hout⟩
  rw [fetch_responds (bc1Color · · (pixelIndex x y)) hturn hblk]
  simp only [bc1Color, bc1Entry_eq_ite, Bool.false_eq_true, false_or, bc1_code_in_row]

/-- The colour half `BLK[127:64]` of a BC3 block in bits of the block (R158, R160). -/
theorem bc1Entry_upperHalf (alwaysFour : Bool) (blk : Nat) {i : Nat} (hi : i < 16) :
    bc1Entry alwaysFour (slice blk 127 64) i =
      if alwaysFour = true ∨ slice blk 79 64 > slice blk 95 80 then
        pal4 (slice blk 79 64) (slice blk 95 80) (slice blk (97 + 2 * i) (96 + 2 * i))
      else pal3 (slice blk 79 64) (slice blk 95 80) (slice blk (97 + 2 * i) (96 + 2 * i)) := by
  have hcode : slice (slice blk 127 64) (33 + 2 * i) (32 + 2 * i) = slice blk (97 + 2 * i) (96 + 2 * i) := by
    rw [slice_slice blk (by omega), ← Nat.add_assoc, ← Nat.add_assoc]
  rw [bc1Entry_eq_ite, hcode, slice_slice blk (by decide), slice_slice blk (by decide)]

theorem pixelIndex_lt (x y : Coord) : pixelIndex x y < 16 := by
  unfold pixelIndex
  omega

theorem exec_decBc3 (x y : Coord) (off : Nat) (s : State) : exec (.decBc3 x y off) s =
    withBlock off 16 (fun blk s => respond (bc3Color s.cfg blk (pixelIndex x y)) s) s := rfl

/-- Settles O40: the fetch answers with `bc3Color`, whose colour half is read as bits of the block, or faults. -/
theorem decBc3Responds : Obligations.DecBc3Responds := by
  refine ⟨decodeRequest_cmdOf_format .bc3, fun s u q rest x y off hturn => ?_⟩
  rw [exec_decBc3]
  refine ⟨fun blk hblk => ?_, fun len hopen hout => fetch_faults (by decide) hturn hopen hout⟩
  rw [fetch_responds (bc3Color · · (pixelIndex x y)) hturn hblk]
  simp only [bc3Color, bc1Entry_upperHalf _ blk (pixelIndex_lt x y), decide_eq_true_eq]
  rfl

end Sys2Proof.Machine
end

section
/-! SUPPORT. The two palettes of a BC4 plane by their values, and the ends of a BC4 and a BC5 request (43_bc4_bc5). -/

namespace Sys2Proof.Machine

/-! ## The palettes of the plane -/

/-- Past the two endpoints, the eight values are blends over 7 (R172). -/
theorem fracValue_bc4Eight (e0 e1 : Nat) {k : Nat} (hk : 2 ≤ k) :
    fracValue (bc4Eight e0 e1 k) = ((8 - k : Nat) * e0 + (k - 1 : Nat) * e1 : ℚ) / 7 / 255 := by
  obtain ⟨j, rfl⟩ := Nat.exists_eq_add_of_le' hk
  simp only [bc4Eight, fracValue, div_div]
  norm_num

/-- From code 2 to 5, the six values are blends over 5 (R173). -/
theorem fracValue_bc4Six (e0 e1 : Nat) {k : Nat} (hk : 2 ≤ k) (hk' : k < 6) :
    fracValue (bc4Six e0 e1 k) = ((6 - k : Nat) * e0 + (k - 1 : Nat) * e1 : ℚ) / (5 * 255) := by
  match k, hk, hk' with
  | 2, _, _ | 3, _, _ | 4, _, _ | 5, _, _ => norm_num [bc4Six, fracValue]

theorem bc4Plane_of_gt {plane : Nat} (h : slice plane 7 0 > slice plane 15 8) (i : Nat) :
    bc4Plane plane i = bc4Eight (slice plane 7 0) (slice plane 15 8) (slice plane (18 + 3 * i) (16 + 3 * i)) := by
  simp only [bc4Plane, eightValue, decide_eq_true h, if_true]

theorem bc4Plane_of_le {plane : Nat} (h : slice plane 7 0 ≤ slice plane 15 8) (i : Nat) :
    bc4Plane plane i = bc4Six (slice plane 7 0) (slice plane 15 8) (slice plane (18 + 3 * i) (16 + 3 * i)) := by
  simp only [bc4Plane, eightValue, decide_eq_false h.not_gt, Bool.false_eq_true, if_false]

/-- Settles O41: the compare chooses the palette; its values but the endpoints, 0 and 1 are blends of the endpoints. -/
theorem bc4PlaneFollowsItsPalette : Obligations.Bc4PlaneFollowsItsPalette := by
  intro plane i _
  refine ⟨fun hgt => ?_, fun hle => ?_⟩
  · rw [bc4Plane_of_gt hgt]
    generalize slice plane (18 + 3 * i) (16 + 3 * i) = code
    refine ⟨?_, ?_, ?_, ?_, ?_, ?_, ?_, ?_⟩ <;> rintro rfl
    case refine_1 | refine_2 => rfl
    all_goals simp [fracValue_bc4Eight]
  · rw [bc4Plane_of_le hle]
    generalize slice plane (18 + 3 * i) (16 + 3 * i) = code
    refine ⟨?_, ?_, ?_, ?_, ?_, ?_, ?_, ?_⟩ <;> rintro rfl
    case refine_1 | refine_2 => rfl
    case refine_7 | refine_8 => simp [bc4Six, fracValue]
    all_goals simp [fracValue_bc4Six]

/-! ## The ends of the requests -/

theorem exec_decBc4 (x y : Coord) (off : Nat) (s : State) : exec (.decBc4 x y off) s =
    withBlock off 8 (fun blk s => respond (bc4Color s.cfg blk (pixelIndex x y)) s) s := rfl

theorem exec_decBc5 (x y : Coord) (off : Nat) (s : State) : exec (.decBc5 x y off) s =
    withBlock off 16 (fun blk s => respond (bc5Color s.cfg blk (pixelIndex x y)) s) s := rfl

/-- Settles O43: the fetch answers with `bc4Color` or `bc5Color`, or faults. -/
theorem decBc4AndDecBc5Respond : Obligations.DecBc4AndDecBc5Respond := by
  refine ⟨fun x y off => ⟨decodeRequest_cmdOf_format .bc4 x y off, decodeRequest_cmdOf_format .bc5 x y off⟩,
    fun s u q rest x y off hturn => ?_⟩
  rw [exec_decBc4, exec_decBc5]
  exact ⟨fun blk hblk => fetch_responds (bc4Color · · (pixelIndex x y)) hturn hblk,
    fun blk hblk => fetch_responds (bc5Color · · (pixelIndex x y)) hturn hblk,
    fun len hopen => ⟨fetch_faults (by decide) hturn hopen, fetch_faults (by decide) hturn hopen⟩⟩

end Sys2Proof.Machine
end

section
/-! SUPPORT. The fields of a BC6H block by its mode's table, as sums of block bits (44_bc6h R204 to R218). -/

namespace Sys2Proof.Machine

@[simp] theorem fieldAt_nil (blk : Nat) (fld : Bc6hField) : fieldAt [] blk fld = 0 := rfl

/-- A row adds what it reads to its own field and nothing to the others. -/
@[simp] theorem fieldAt_cons (r : Bc6hRow) (rows : List Bc6hRow) (blk : Nat) (fld : Bc6hField) :
    fieldAt (r :: rows) blk fld = (if r.fld = fld then r.read blk else 0) + fieldAt rows blk fld := by
  by_cases h : r.fld = fld <;> simp [fieldAt, h]

@[simp] theorem bc6hRow_read_plain (blk hi lo fhi flo : Nat) (fld : Bc6hField) :
    (Bc6hRow.mk hi lo fld fhi flo false).read blk = 2 ^ flo * slice blk hi lo := Nat.mul_comm _ _

@[simp] theorem bc6hRow_read_reversed (blk hi lo fhi flo : Nat) (fld : Bc6hField) :
    (Bc6hRow.mk hi lo fld fhi flo true).read blk = 2 ^ flo * reverseBits (hi + 1 - lo) (slice blk hi lo) := Nat.mul_comm _ _

theorem slice_mod_two {v hi lo : Nat} (h : lo ≤ hi) : slice v hi lo % 2 = slice v lo lo := by
  have hdvd : 2 ^ 1 ∣ 2 ^ (hi + 1 - lo) := pow_dvd_pow 2 (by omega)
  rw [slice, slice, Nat.add_sub_cancel_left]
  exact Nat.mod_mod_of_dvd _ hdvd

theorem slice_div_two (v hi lo : Nat) : slice v hi lo / 2 = slice v hi (lo + 1) := by
  refine Nat.eq_of_testBit_eq fun k => ?_
  rw [Nat.testBit_div_two, testBit_slice, testBit_slice, ← Nat.add_assoc, Nat.add_right_comm]

/-- The lowest bit of a field stands highest in its reverse. -/
theorem reverseBits_slice {v hi lo : Nat} (n : Nat) (h : lo ≤ hi) :
    reverseBits (n + 1) (slice v hi lo) = 2 ^ n * slice v lo lo + reverseBits n (slice v hi (lo + 1)) := by
  rw [reverseBits, slice_mod_two h, slice_div_two, Nat.mul_comm]

/-- Settles O46: in each mode's table, a field is the sum of what its rows read. -/
theorem bc6hTwoSubsetLayouts : Obligations.Bc6hTwoSubsetLayouts := by
  intro sg x y blk
  refine ⟨?_, ?_, ?_, ?_, ?_, ?_, ?_, ?_, ?_, ?_⟩
  all_goals
    intro hmode
    simp only [decodeBc6h, hmode, Bc6hTwo.ofBlock]
    simp [bc6hLayout1, bc6hLayout2, bc6hLayout3, bc6hLayout4, bc6hLayout5, bc6hLayout6, bc6hLayout7, bc6hLayout8, bc6hLayout9,
      bc6hLayout10, add_comm, add_left_comm, add_assoc]

/-- Settles O47: the same for the tables with reversed rows, each of which is read from its lowest bit, the highest of the field. -/
theorem bc6hOneSubsetLayouts : Obligations.Bc6hOneSubsetLayouts := by
  intro sg x y blk
  refine ⟨?_, ?_, ?_, ?_⟩
  all_goals
    intro hmode
    simp only [decodeBc6h, hmode, Bc6hOne.ofBlock]
    simp [bc6hLayout11, bc6hLayout12, bc6hLayout13, bc6hLayout14, reverseBits_slice, reverseBits.eq_1, mul_add, ← mul_assoc,
      add_comm, add_left_comm]

end Sys2Proof.Machine
end

section
/-! SUPPORT. From the fields of a BC6H block to its response: endpoints, unquantizing, finishing, and the answers of the modes and of
the reserved blocks (44_bc6h R202, R219 to R229; 45_bc7 R271). -/

namespace Sys2Proof.Machine

/-! ## Endpoints -/

theorem sext_emod (n v : Nat) (hn : 1 ≤ n) : sext n v % 2 ^ n = (v : Int) % 2 ^ n :=
  have ⟨_, _, hmod, _⟩ := sextReadsTwosComplement.1 n v hn
  hmod

/-- The sum of a base and a delta modulo `2 ^ n` is the same from the sign-extended base (R220). -/
theorem sext_add_emod (n v : Nat) (hn : 1 ≤ n) (a : Int) : (sext n v + a) % 2 ^ n = (v + a) % 2 ^ n := by
  rw [Int.add_emod, sext_emod n v hn, ← Int.add_emod]

theorem bc6hDelta_uf16 (n dw : Nat) (base : Int) (f : Nat) :
    bc6hDelta .uf16 n dw base f = (base + sext dw f) % 2 ^ n :=
  Int.toNat_of_nonneg (Int.emod_nonneg _ (by positivity))

/-- At width 0 both sums are 0; no mode has that width. -/
theorem bc6hDelta_sf16 (n dw v f : Nat) :
    bc6hDelta .sf16 n dw (sext n v) f = sext n (((v : Int) + sext dw f) % 2 ^ n).toNat := by
  rw [bc6hDelta, bc6hBase]
  rcases n.eq_zero_or_pos with rfl | hn
  · simp only [pow_zero, Int.emod_one]
  · rw [sext_add_emod n v hn]

/-- A transformed component lies in the range of its width, whatever the base (R220). -/
theorem bc6hDelta_uf16_range (n dw : Nat) (base : Int) (f : Nat) :
    0 ≤ bc6hDelta .uf16 n dw base f ∧ bc6hDelta .uf16 n dw base f < 2 ^ n := by
  rw [bc6hDelta_uf16]
  exact ⟨Int.emod_nonneg _ (by positivity), Int.emod_lt_of_pos _ (by positivity)⟩

theorem bc6hDelta_sf16_range {n : Nat} (hn : 1 ≤ n) (dw : Nat) (base : Int) (f : Nat) :
    -(2 : Int) ^ (n - 1) ≤ bc6hDelta .sf16 n dw base f ∧ bc6hDelta .sf16 n dw base f < 2 ^ (n - 1) :=
  have ⟨hlo, hhi, _⟩ := sextReadsTwosComplement.1 n _ hn
  ⟨hlo, hhi⟩

theorem bc6hEndpointK_of_transformed {d : Bc6hDesc} (ht : d.t = true) (sg : Signedness) (w f : Rgb Nat) :
    bc6hEndpointK sg d w f =
      ⟨bc6hDelta sg d.epb d.dr (bc6hBase sg d.epb w.r) f.r, bc6hDelta sg d.epb d.dg (bc6hBase sg d.epb w.g) f.g,
        bc6hDelta sg d.epb d.db (bc6hBase sg d.epb w.b) f.b⟩ := by
  simp only [bc6hEndpointK, bc6hEndpoint0, bc6hOther, if_pos ht]

theorem bc6hEndpointK_of_not_transformed {d : Bc6hDesc} (ht : d.t = false) (sg : Signedness) (w f : Rgb Nat) :
    bc6hEndpointK sg d w f = bc6hEndpoint0 sg d f := by
  simp only [bc6hEndpointK, bc6hEndpoint0, bc6hOther, ht, Bool.false_eq_true, if_false]

/-- Settles O48: the transformed and the other modes by their equations, the range by that of the remainder and of `sext`. -/
theorem bc6hEndpointsFromFields : Obligations.Bc6hEndpointsFromFields := by
  refine ⟨fun d w f => ⟨rfl, rfl, fun ht => ?_, fun hn dw v a => sext_add_emod d.epb v hn _, fun ht => ?_, fun ht hn => ?_⟩,
    by decide⟩
  · simp only [bc6hEndpointK_of_transformed ht, bc6hDelta_uf16, bc6hBase, bc6hDelta_sf16, and_self]
  · simp only [bc6hEndpointK_of_not_transformed ht]
    exact ⟨rfl, rfl⟩
  · simp only [bc6hEndpointK_of_transformed ht, List.forall_mem_cons, List.not_mem_nil, false_implies, implies_true, and_true]
    have hu := bc6hDelta_uf16_range d.epb
    have hs := bc6hDelta_sf16_range hn
    exact ⟨⟨hu _ _ _, hu _ _ _, hu _ _ _⟩, hs _ _ _, hs _ _ _, hs _ _ _⟩

/-! ## Unquantizing -/

theorem two_pow_eq_double {n : Nat} (hn : 1 ≤ n) : (2 : Int) ^ n = 2 * 2 ^ (n - 1) := by
  rw [← pow_succ', Nat.sub_add_cancel hn]

theorem unqU_zero (n : Nat) : unqU 0 n = 0 := if_pos rfl

theorem unqU_max {n : Nat} (hn : 1 ≤ n) : unqU (2 ^ n - 1) n = 0xFFFF := by
  have hpos : (1 : Int) < 2 ^ n := one_lt_pow₀ (by decide) (by omega)
  rw [unqU, if_neg (by omega), if_pos rfl]

theorem unqU_between {v : Int} {n : Nat} (hlo : 0 < v) (hhi : v < 2 ^ n - 1) :
    unqU v n = (v * 2 ^ 15 + 0x4000) / 2 ^ (n - 1) := by
  rw [unqU, if_neg hlo.ne', if_neg hhi.ne, asr]

theorem unqU_range {v : Int} {n : Nat} (hn : 1 ≤ n) (hlo : 0 ≤ v) (hhi : v < 2 ^ n) :
    0 ≤ unqU v n ∧ unqU v n ≤ 0xFFFF := by
  have hpow := two_pow_eq_double hn
  have hpos : (0 : Int) < 2 ^ (n - 1) := by positivity
  obtain rfl | h0 := hlo.eq_or_lt
  · simp [unqU_zero]
  obtain rfl | hmax := (Int.le_sub_one_of_lt hhi).eq_or_lt
  · simp [unqU_max hn]
  · rw [unqU_between h0 hmax]
    exact ⟨Int.ediv_nonneg (by omega) hpos.le, Int.le_of_lt_add_one (Int.ediv_lt_of_lt_mul hpos (by omega))⟩

/-- At 16 bits the scale is 1 and the rounding is lost by the shift. -/
theorem unqU_sixteen {v : Int} (hlo : 0 ≤ v) (hhi : v < 2 ^ 16) : unqU v 16 = v := by
  obtain rfl | h0 := hlo.eq_or_lt
  · rfl
  obtain rfl | hmax := (Int.le_sub_one_of_lt hhi).eq_or_lt
  · rfl
  · rw [unqU_between h0 hmax]
    omega

theorem unqMag_zero (n : Nat) : unqMag 0 n = 0 := if_pos rfl

theorem unqMag_of_ge {a : Int} {n : Nat} (h0 : a ≠ 0) (h : 2 ^ (n - 1) - 1 ≤ a) : unqMag a n = 0x7FFF := by
  rw [unqMag, if_neg h0, if_pos h]

theorem unqMag_between {a : Int} {n : Nat} (h0 : 0 < a) (h : a < 2 ^ (n - 1) - 1) :
    unqMag a n = (a * 2 ^ 15 + 0x4000) / 2 ^ (n - 1) := by
  rw [unqMag, if_neg h0.ne', if_neg h.not_ge, asr]

theorem unqMag_range {a : Int} (n : Nat) (h0 : 0 ≤ a) : 0 ≤ unqMag a n ∧ unqMag a n ≤ 0x7FFF := by
  have hpos : (0 : Int) < 2 ^ (n - 1) := by positivity
  obtain rfl | h0 := h0.eq_or_lt
  · simp [unqMag_zero]
  obtain h | h := le_or_gt (2 ^ (n - 1) - 1) a
  · simp [unqMag_of_ge h0.ne' h]
  · rw [unqMag_between h0 h]
    exact ⟨Int.ediv_nonneg (by omega) hpos.le, Int.le_of_lt_add_one (Int.ediv_lt_of_lt_mul hpos (by omega))⟩

theorem unqMag_sixteen {a : Int} (hlo : 0 ≤ a) (hhi : a < 2 ^ 15) : unqMag a 16 = a := by
  obtain rfl | h0 := hlo.eq_or_lt
  · rfl
  obtain rfl | hmax := (Int.le_sub_one_of_lt hhi).eq_or_lt
  · rfl
  · rw [unqMag_between h0 hmax]
    omega

/-- Without the bypass the magnitude is unquantized and the sign put back (R223). -/
theorem unqS_false (v : Int) (n : Nat) : unqS false v n = v.sign * unqMag |v| n := by
  rcases lt_trichotomy v 0 with h | rfl | h
  · simp [unqS, h, abs_of_neg h, Int.sign_eq_neg_one_of_neg h]
  · simp [unqS, unqMag_zero]
  · simp [unqS, h.not_gt, abs_of_pos h, Int.sign_eq_one_of_pos h]

theorem unqS_bypass_sixteen (v : Int) : unqS true v 16 = v := if_pos ⟨rfl, rfl⟩

/-- The bypass is for 16 bits alone. -/
theorem unqS_bypass_of_ne {n : Nat} (hn : n ≠ 16) (v : Int) : unqS true v n = unqS false v n := by
  simp only [unqS, hn, false_and, if_false]

theorem unqS_false_abs_le (v : Int) (n : Nat) : |unqS false v n| ≤ 0x7FFF := by
  obtain ⟨hlo, hhi⟩ := unqMag_range n (abs_nonneg v)
  rw [unqS_false, abs_mul, abs_of_nonneg hlo]
  calc |v.sign| * unqMag |v| n ≤ 1 * unqMag |v| n := by
        refine mul_le_mul_of_nonneg_right ?_ hlo
        rcases Int.sign_trichotomy v with h | h | h <;> simp [h]
    _ ≤ 0x7FFF := by rwa [one_mul]

theorem unqS_false_sixteen {v : Int} (h : |v| < 2 ^ 15) : unqS false v 16 = v := by
  rw [unqS_false, unqMag_sixteen (abs_nonneg v) h, Int.sign_mul_abs]

/-- Settles O49: each clause is a case of `unqU` or of the magnitude. -/
theorem bc6hUnquantizeReachesTheFullRange : Obligations.Bc6hUnquantizeReachesTheFullRange := by
  refine ⟨fun n v hn _ hlo hhi => ?_, fun n v hn _ hlo hhi => ?_, by decide⟩
  · obtain ⟨hmin, hmax⟩ := unqU_range hn hlo hhi
    refine ⟨?_, ?_, unqU_between, hmin, hmax, ?_⟩
    · rintro rfl
      exact unqU_zero n
    · rintro rfl
      exact unqU_max hn
    · rintro rfl
      exact unqU_sixteen hlo hhi
  · obtain ⟨hmin, hmax⟩ := abs_le.mp (unqS_false_abs_le v n)
    refine ⟨?_, fun h => unqS_bypass_of_ne h v, ?_, fun h0 h => ?_, fun h0 h => ?_, hmin, hmax, ?_, ?_⟩
    · rintro rfl
      exact unqS_bypass_sixteen v
    · rintro rfl
      simp [unqS_false]
    · rw [unqS_false, unqMag_between h0 h]
    · rw [unqS_false, unqMag_of_ge (abs_ne_zero.mpr h0) h]
    · rintro rfl hne
      exact unqS_false_sixteen (abs_lt.mpr ⟨by omega, hhi⟩)
    · rintro rfl rfl
      rfl

/-! ## Finishing -/

theorem ofInt_toNat {a : Int} (hlo : 0 ≤ a) (hhi : a < 2 ^ 16) : ((BitVec.ofInt 16 a).toNat : Int) = a := by
  rw [BitVec.toNat_ofInt]
  omega

theorem finishU_toNat {v : Int} (hlo : 0 ≤ v) (hhi : v ≤ 0xFFFF) : ((finishU v).toNat : Int) = v * 31 / 2 ^ 6 := by
  rw [finishU, asr]
  exact ofInt_toNat (by omega) (by omega)

theorem finishS_toNat_of_nonneg {v : Int} (negZero : Bool) (hlo : 0 ≤ v) (hhi : v ≤ 32767) :
    ((finishS negZero v).toNat : Int) = v * 31 / 2 ^ 5 := by
  rw [finishS, if_neg hlo.not_gt, asr]
  exact ofInt_toNat (by omega) (by omega)

theorem finishS_of_zero_magnitude {v : Int} (hneg : v < 0) (hmag : -v * 31 / 2 ^ 5 = 0) : finishS false v = 0 := by
  rw [finishS, if_pos hneg]
  exact if_pos ⟨hmag, rfl⟩

/-- The sign bit stands above the magnitude, so the two are added. -/
theorem signBit_or_toNat {m : Int} (hlo : 0 ≤ m) (hhi : m < 2 ^ 15) :
    (((0x8000 : Word16) ||| BitVec.ofInt 16 m).toNat : Int) = 0x8000 + m := by
  have hm := ofInt_toNat hlo (by omega)
  have hlt : (BitVec.ofInt 16 m).toNat < 2 ^ 15 := by omega
  have hor := Nat.two_pow_add_eq_or_of_lt hlt 1
  rw [BitVec.toNat_or, show (0x8000 : Word16).toNat = 2 ^ 15 * 1 from rfl, ← hor]
  omega

theorem finishS_toNat_of_neg {v : Int} {negZero : Bool} (hlo : -32768 ≤ v) (hneg : v < 0)
    (h : -v * 31 / 2 ^ 5 ≠ 0 ∨ negZero = true) : ((finishS negZero v).toNat : Int) = 0x8000 + -v * 31 / 2 ^ 5 := by
  have hsign : ¬(-v * 31 / 2 ^ 5 = 0 ∧ negZero = false) := by simpa [imp_iff_not_or] using h
  have hmag : 0 ≤ -v * 31 / 2 ^ 5 ∧ -v * 31 / 2 ^ 5 < 2 ^ 15 := by omega
  rw [finishS, if_pos hneg]
  dsimp only [asr]
  rw [if_neg hsign]
  exact signBit_or_toNat hmag.1 hmag.2

/-- Below the sign bit a word is at most 0x7BFF, the largest finite pattern (R228). -/
theorem finishS_magnitude_le (negZero : Bool) {v : Int} (hlo : -32767 ≤ v) (hhi : v ≤ 32767) :
    (finishS negZero v).toNat % 2 ^ 15 ≤ 0x7BFF := by
  rcases le_or_gt 0 v with h0 | hneg
  · have h := finishS_toNat_of_nonneg negZero h0 hhi
    have hmag : (finishS negZero v).toNat ≤ 0x7BFF := by omega
    exact (Nat.mod_le _ _).trans hmag
  by_cases hsign : -v * 31 / 2 ^ 5 ≠ 0 ∨ negZero = true
  · have hbounds : 0x8000 ≤ (finishS negZero v).toNat ∧ (finishS negZero v).toNat ≤ 0x8000 + 0x7BFF := by
      have h := finishS_toNat_of_neg (by omega) hneg hsign
      omega
    omega
  · obtain ⟨hmag, hnz⟩ := not_or.mp hsign
    rw [Bool.eq_false_of_not_eq_true hnz, finishS_of_zero_magnitude hneg (not_not.mp hmag)]
    decide

/-- Settles O50: the quotient is in range, so the word holds it, and the sign bit stands above it. -/
theorem bc6hFinishGivesHalfPatterns : Obligations.Bc6hFinishGivesHalfPatterns := by
  refine ⟨fun v hlo hhi => ?_, fun negZero v hlo hhi => ⟨fun h => ?_, ?_, fun hneg => finishS_toNat_of_neg hlo hneg,
    fun h => finishS_magnitude_le negZero h hhi, ?_⟩⟩
  · have h := finishU_toNat hlo hhi
    exact ⟨h, by omega⟩
  · have h := finishS_toNat_of_nonneg negZero h hhi
    exact ⟨h, by omega⟩
  · rintro hneg hmag rfl
    exact finishS_of_zero_magnitude hneg hmag
  · rintro rfl
    cases negZero <;> rfl

/-! ## Responses -/

/-- The subset of the pixel chooses the ends of its palette, and nothing else (R225). -/
theorem bc6hTwoColor_eq_pixel (cfg : Config) (sg : Signedness) (d : Bc6hDesc) (f : Bc6hTwo) (i : Nat) :
    bc6hTwoColor cfg sg d f i =
      bc6hPixel cfg sg d (if subsetOf d.ns f.p i = 0 then bc6hEndpoint0 sg d f.w else bc6hEndpointK sg d f.w f.y)
        (if subsetOf d.ns f.p i = 0 then bc6hEndpointK sg d f.w f.x else bc6hEndpointK sg d f.w f.z)
        (indexAt f.idx d.ib (anchorsOf d.ns f.p) i) := by
  unfold bc6hTwoColor
  split <;> rfl

/-- Settles O51: each mode answers with `bc6hTwoColor` under its own descriptor. -/
theorem bc6hTwoSubsetModesRespond : Obligations.Bc6hTwoSubsetModesRespond := by
  intro s u q rest sg x y f hturn i subset wt unq fin responds
  have hresp (j : Instr) (d : Bc6hDesc) (hns : d.ns = 2) (hib : d.ib = 3)
      (hexec : exec j s = respond (bc6hTwoColor s.cfg sg d f (pixelIndex x y)) s) : responds j d := by
    rw [bc6hTwoColor_eq_pixel, bc6hPixel, hns, hib, respond_serve _ hturn] at hexec
    exact hexec
  exact ⟨hresp _ _ rfl rfl rfl, hresp _ _ rfl rfl rfl, hresp _ _ rfl rfl rfl, hresp _ _ rfl rfl rfl, hresp _ _ rfl rfl rfl,
    hresp _ _ rfl rfl rfl, hresp _ _ rfl rfl rfl, hresp _ _ rfl rfl rfl, hresp _ _ rfl rfl rfl, hresp _ _ rfl rfl rfl⟩

/-- Settles O52: each mode answers with `bc6hOneColor` under its own descriptor. -/
theorem bc6hOneSubsetModesRespond : Obligations.Bc6hOneSubsetModesRespond := by
  intro s u q rest sg x y f hturn wt unq fin responds
  have hresp (j : Instr) (d : Bc6hDesc) (hns : d.ns = 1) (hib : d.ib = 4)
      (hexec : exec j s = respond (bc6hOneColor s.cfg sg d f (pixelIndex x y)) s) : responds j d := by
    rw [bc6hOneColor, bc6hPixel, hns, hib, respond_serve _ hturn] at hexec
    exact hexec
  exact ⟨hresp _ _ rfl rfl rfl, hresp _ _ rfl rfl rfl, hresp _ _ rfl rfl rfl, hresp _ _ rfl rfl rfl⟩

/-- Settles O53: the reserved codes select the reserved instructions, each of which answers with one colour. -/
theorem reservedBlocksGiveTheirFallback : Obligations.ReservedBlocksGiveTheirFallback := by
  intro s u q rest sg x y bits hturn responds
  have hbc6h : respond bc6hReservedColor s = .next (s.finish u q rest (.response bc6hReservedColor)) := respond_serve _ hturn
  have hbc7 : respond bc7ReservedColor s = .next (s.finish u q rest (.response bc7ReservedColor)) := respond_serve _ hturn
  refine ⟨hbc6h, hbc6h, hbc6h, hbc6h, hbc7, fun blk => ⟨?_, fun hlow => ?_⟩⟩
  · rintro (h | h | h | h)
    · rw [decodeBc6h, (bc6hModeOf_eq_iff blk .r13).mp h]
      exact hbc6h
    · rw [decodeBc6h, (bc6hModeOf_eq_iff blk .r17).mp h]
      exact hbc6h
    · rw [decodeBc6h, (bc6hModeOf_eq_iff blk .r1B).mp h]
      exact hbc6h
    · rw [decodeBc6h, (bc6hModeOf_eq_iff blk .r1F).mp h]
      exact hbc6h
  · rw [decodeBc7, (bc7ModeOf_eq_iff (m := .reserved)).mpr (lowestSet_eq_none_iff.mpr hlow)]
    exact hbc7

end Sys2Proof.Machine
end

section
/-! SUPPORT. From the fields of a BC7 block to its response: endpoints, weights, channel values and the answers of the modes
(45_bc7 R273 to R282). -/

namespace Sys2Proof.Machine

/-! ## Endpoints -/

/-- A bound on all entries of a list bounds every look-up, if the default keeps it too. -/
theorem getD_of_forall_mem {α : Type} {P : α → Prop} {l : List α} {a : α} (hl : ∀ b ∈ l, P b) (ha : P a) (i : Nat) :
    P (l.getD i a) := by
  rcases lt_or_ge i l.length with hi | hi
  · rw [List.getD_eq_getElem _ _ hi]
    exact hl _ (List.getElem_mem hi)
  · rwa [List.getD_eq_default _ _ hi]

theorem getD_lt_of_fieldsFit {len n : Nat} {vs : List Nat} (h : fieldsFit len n vs = true) (i : Nat) : vs.getD i 0 < 2 ^ n := by
  simp only [fieldsFit, fits, Bool.and_eq_true, List.all_eq_true, decide_eq_true_eq] at h
  exact getD_of_forall_mem h.2 (Nat.two_pow_pos n) i

section
variable {d : Bc7Desc}

/-- The endpoint fields and p-bits of a well-formed block fit their widths. -/
theorem bc7_endpointFields_fit {f : Bc7Fields} (h : f.fits d = true) :
    fieldsFit d.endpoints d.cb f.r = true ∧ fieldsFit d.endpoints d.cb f.g = true ∧ fieldsFit d.endpoints d.cb f.b = true ∧
      fieldsFit d.alphaEndpoints d.ab f.a = true ∧ fieldsFit d.pbits 1 f.pb = true := by
  simp only [Bc7Fields.fits, Bool.and_eq_true] at h
  tauto

/-- R273: with a p-bit for each endpoint. -/
theorem bc7Endpoint_of_ownPBit (hepb : d.epb = 1) (hspb : d.spb = 0) (n : Nat) (vs pb : List Nat) (e : Nat) :
    bc7Endpoint d n vs pb e = unq8 (2 * vs.getD e 0 + pb.getD e 0) (n + 1) := by
  simp [bc7Endpoint, bc7PWidth, hepb, hspb, mul_comm]

/-- R274: with a p-bit for each subset, whose endpoints are two in a row. -/
theorem bc7Endpoint_of_sharedPBit (hepb : d.epb = 0) (hspb : d.spb = 1) (n : Nat) (vs pb : List Nat) (e : Nat) :
    bc7Endpoint d n vs pb e = unq8 (2 * vs.getD e 0 + pb.getD (e / 2) 0) (n + 1) := by
  simp [bc7Endpoint, bc7PWidth, hepb, hspb, mul_comm]

theorem bc7Endpoint_of_noPBit (hepb : d.epb = 0) (hspb : d.spb = 0) (n : Nat) (vs pb : List Nat) (e : Nat) :
    bc7Endpoint d n vs pb e = unq8 (vs.getD e 0) n := by
  simp [bc7Endpoint, bc7PWidth, hepb, hspb]

/-- A widened field is below `2 ^ (n + 1)`, so it expands to a byte whichever p-bit it took. -/
theorem bc7Endpoint_le_255 {n len plen : Nat} {vs pb : List Nat} (hp : bc7PWidth d ≤ 1) (hlo : 5 ≤ n + bc7PWidth d)
    (hhi : n + bc7PWidth d ≤ 8) (hvs : fieldsFit len n vs = true) (hpb : fieldsFit plen 1 pb = true) (e : Nat) :
    bc7Endpoint d n vs pb e ≤ 255 := by
  have hv : vs.getD e 0 < 2 ^ n := getD_lt_of_fieldsFit hvs e
  have hwide (k : Nat) : 2 * vs.getD e 0 + pb.getD k 0 < 2 ^ (n + 1) := by
    have hbit : pb.getD k 0 < 2 := getD_lt_of_fieldsFit hpb k
    omega
  unfold bc7PWidth at hp hlo hhi
  obtain ⟨hepb, hspb⟩ | ⟨hepb, hspb⟩ | ⟨hepb, hspb⟩ :
    d.epb = 1 ∧ d.spb = 0 ∨ d.epb = 0 ∧ d.spb = 1 ∨ d.epb = 0 ∧ d.spb = 0 := by omega
  · rw [bc7Endpoint_of_ownPBit hepb hspb]
    exact unq8_le_255 (by omega) (by omega) (hwide e)
  · rw [bc7Endpoint_of_sharedPBit hepb hspb]
    exact unq8_le_255 (by omega) (by omega) (hwide (e / 2))
  · rw [bc7Endpoint_of_noPBit hepb hspb]
    exact unq8_le_255 (by omega) (by omega) hv

/-- R261: no mode has both kinds of p-bits, and every widened endpoint has 5 to 8 bits. -/
theorem bc7Desc_widened_widths {m : Bc7Mode} (hm : m ≠ .reserved) :
    let d := bc7Desc m
    bc7PWidth d ≤ 1 ∧ (5 ≤ d.cb + bc7PWidth d ∧ d.cb + bc7PWidth d ≤ 8) ∧
      (d.ab ≠ 0 → 5 ≤ d.ab + bc7PWidth d ∧ d.ab + bc7PWidth d ≤ 8) := by
  cases m
  case reserved => exact absurd rfl hm
  all_goals decide

theorem bc7AlphaEndpoint_of_noAlpha (hab : d.ab = 0) (f : Bc7Fields) (e : Nat) : bc7AlphaEndpoint d f e = 255 := if_pos hab

theorem bc7AlphaEndpoint_of_alpha (hab : d.ab ≠ 0) (f : Bc7Fields) (e : Nat) :
    bc7AlphaEndpoint d f e = bc7Endpoint d d.ab f.a f.pb e := if_neg hab

end

/-- The endpoints of a well-formed block are bytes. -/
theorem bc7Endpoints_le_255 {m : Bc7Mode} {f : Bc7Fields} (hm : m ≠ .reserved) (hf : f.fits (bc7Desc m) = true) (e : Nat) :
    let d := bc7Desc m
    bc7Endpoint d d.cb f.r f.pb e ≤ 255 ∧ bc7Endpoint d d.cb f.g f.pb e ≤ 255 ∧ bc7Endpoint d d.cb f.b f.pb e ≤ 255 ∧
      bc7AlphaEndpoint d f e ≤ 255 := by
  obtain ⟨hp, ⟨hclo, hchi⟩, halpha⟩ := bc7Desc_widened_widths hm
  obtain ⟨hr, hg, hb, ha, hpb⟩ := bc7_endpointFields_fit hf
  refine ⟨bc7Endpoint_le_255 hp hclo hchi hr hpb e, bc7Endpoint_le_255 hp hclo hchi hg hpb e,
    bc7Endpoint_le_255 hp hclo hchi hb hpb e, ?_⟩
  by_cases hab : (bc7Desc m).ab = 0
  · exact (bc7AlphaEndpoint_of_noAlpha hab f e).le
  · obtain ⟨halo, hahi⟩ := halpha hab
    rw [bc7AlphaEndpoint_of_alpha hab]
    exact bc7Endpoint_le_255 hp halo hahi ha hpb e

/-- Settles O57: the mode table says which p-bit widens a field and whether there are alpha endpoints. -/
theorem bc7EndpointsAreWidenedAndExpanded : Obligations.Bc7EndpointsAreWidenedAndExpanded := by
  refine ⟨fun vs pb e n => ⟨?_, bc7Endpoint_of_sharedPBit rfl rfl n vs pb e, ?_⟩, fun f e => ⟨?_, rfl, rfl, rfl, rfl⟩,
    fun m f e hm hf => bc7Endpoints_le_255 hm hf e⟩
  · rintro m (rfl | rfl | rfl | rfl) <;> exact bc7Endpoint_of_ownPBit rfl rfl n vs pb e
  · rintro m (rfl | rfl | rfl) <;> exact bc7Endpoint_of_noPBit rfl rfl n vs pb e
  · rintro m (rfl | rfl | rfl | rfl) <;> exact bc7AlphaEndpoint_of_noAlpha rfl f e

/-! ## Pixel values -/

theorem subsetOf_eq_ite (ns p i : Nat) :
    subsetOf ns p i = if ns = 2 then partition2 p i else if ns = 3 then partition3 p i else 0 := by
  unfold subsetOf
  split
  case h_1 => rfl
  case h_2 => rfl
  case h_3 h2 h3 => rw [if_neg h2, if_neg h3]

theorem weight_le_64 (b index : Nat) : weight b index ≤ 64 := by
  unfold weight
  split
  · exact getD_of_forall_mem (P := (· ≤ 64)) (l := w2) (by decide) (by decide) index
  · exact getD_of_forall_mem (P := (· ≤ 64)) (l := w3) (by decide) (by decide) index
  · exact getD_of_forall_mem (P := (· ≤ 64)) (l := w4) (by decide) (by decide) index
  · decide

section
variable {d : Bc7Desc}

theorem bc7ColorWeight_of_array1 {f : Bc7Fields} (h : ¬(d.isb = 1 ∧ f.isel = 1)) (i : Nat) :
    bc7ColorWeight d f i = weight d.ib (bc7Index1 d f i) := if_neg h

theorem bc7ColorWeight_of_array2 {f : Bc7Fields} (h : d.isb = 1 ∧ f.isel = 1) (i : Nat) :
    bc7ColorWeight d f i = weight d.ib2 (bc7Index2 d f i) := if_pos h

theorem bc7AlphaWeight_of_array1 {f : Bc7Fields} (h : d.ib2 = 0 ∨ d.isb = 1 ∧ f.isel = 1) (i : Nat) :
    bc7AlphaWeight d f i = weight d.ib (bc7Index1 d f i) := if_pos h

theorem bc7AlphaWeight_of_array2 {f : Bc7Fields} (h : ¬(d.ib2 = 0 ∨ d.isb = 1 ∧ f.isel = 1)) (i : Nat) :
    bc7AlphaWeight d f i = weight d.ib2 (bc7Index2 d f i) := if_neg h

/-- R278, a mode with one index array: it drives all channels. -/
theorem bc7_weights_of_oneArray (hisb : d.isb = 0) (hib2 : d.ib2 = 0) (f : Bc7Fields) (i : Nat) :
    bc7ColorWeight d f i = weight d.ib (bc7Index1 d f i) ∧ bc7AlphaWeight d f i = weight d.ib (bc7Index1 d f i) :=
  ⟨bc7ColorWeight_of_array1 (by simp [hisb]) i, bc7AlphaWeight_of_array1 (.inl hib2) i⟩

/-- R278, two index arrays in their plain roles: array 1 drives colour, array 2 alpha. -/
theorem bc7_weights_of_plainRoles {f : Bc7Fields} (hib2 : d.ib2 ≠ 0) (hsel : ¬(d.isb = 1 ∧ f.isel = 1)) (i : Nat) :
    bc7ColorWeight d f i = weight d.ib (bc7Index1 d f i) ∧ bc7AlphaWeight d f i = weight d.ib2 (bc7Index2 d f i) :=
  ⟨bc7ColorWeight_of_array1 hsel i, bc7AlphaWeight_of_array2 (not_or.mpr ⟨hib2, hsel⟩) i⟩

/-- R278, the roles exchanged by `isel`: array 2 drives colour, array 1 alpha. -/
theorem bc7_weights_of_swappedRoles {f : Bc7Fields} (hsel : d.isb = 1 ∧ f.isel = 1) (i : Nat) :
    bc7ColorWeight d f i = weight d.ib2 (bc7Index2 d f i) ∧ bc7AlphaWeight d f i = weight d.ib (bc7Index1 d f i) :=
  ⟨bc7ColorWeight_of_array2 hsel i, bc7AlphaWeight_of_array1 (.inr hsel) i⟩

end

theorem bc7ColorWeight_le_64 (d : Bc7Desc) (f : Bc7Fields) (i : Nat) : bc7ColorWeight d f i ≤ 64 := by
  unfold bc7ColorWeight
  split <;> exact weight_le_64 _ _

theorem bc7AlphaWeight_le_64 (d : Bc7Desc) (f : Bc7Fields) (i : Nat) : bc7AlphaWeight d f i ≤ 64 := by
  unfold bc7AlphaWeight
  split <;> exact weight_le_64 _ _

theorem interpolate_bytes_mem_Icc {a b w : Nat} (ha : a ≤ 255) (hb : b ≤ 255) (hw : w ≤ 64) :
    0 ≤ interpolate a b w ∧ interpolate a b w ≤ 255 := by
  obtain ⟨hlo, hhi⟩ := interpolate_mem_Icc (e0 := a) (e1 := b) hw
  omega

/-- In a well-formed block every channel value lies between two bytes. -/
theorem bc7Values_mem_Icc {m : Bc7Mode} {f : Bc7Fields} (hm : m ≠ .reserved) (hf : f.fits (bc7Desc m) = true) (i : Nat) :
    let v := bc7Values (bc7Desc m) f i
    (0 ≤ v.r ∧ v.r ≤ 255) ∧ (0 ≤ v.g ∧ v.g ≤ 255) ∧ (0 ≤ v.b ∧ v.b ≤ 255) ∧ 0 ≤ v.a ∧ v.a ≤ 255 := by
  have hcw := bc7ColorWeight_le_64 (bc7Desc m) f i
  have haw := bc7AlphaWeight_le_64 (bc7Desc m) f i
  obtain ⟨hr0, hg0, hb0, ha0⟩ := bc7Endpoints_le_255 hm hf (2 * subsetOf (bc7Desc m).ns f.p i)
  obtain ⟨hr1, hg1, hb1, ha1⟩ := bc7Endpoints_le_255 hm hf (2 * subsetOf (bc7Desc m).ns f.p i + 1)
  exact ⟨interpolate_bytes_mem_Icc hr0 hr1 hcw, interpolate_bytes_mem_Icc hg0 hg1 hcw, interpolate_bytes_mem_Icc hb0 hb1 hcw,
    interpolate_bytes_mem_Icc ha0 ha1 haw⟩

/-- Settles O58: the mode table and `isel` say which array drives which channels; the range is that of an interpolation. -/
theorem bc7PixelValues : Obligations.Bc7PixelValues := by
  refine ⟨fun d f i => ?_, fun f i => ⟨?_, fun hsel => ?_, fun hsel => ?_, ?_⟩, fun r g b a => ⟨rfl, rfl, rfl, rfl⟩,
    fun m f i hm hf => bc7Values_mem_Icc hm hf i⟩
  · rw [← subsetOf_eq_ite]
    rfl
  · rintro m (rfl | rfl | rfl | rfl | rfl | rfl) <;> exact bc7_weights_of_oneArray rfl rfl f i
  · exact bc7_weights_of_plainRoles (d := bc7Desc .m4) (by decide) (by simp [hsel]) i
  · exact bc7_weights_of_swappedRoles (d := bc7Desc .m4) ⟨rfl, hsel⟩ i
  · exact bc7_weights_of_plainRoles (d := bc7Desc .m5) (by decide) (by simp [bc7Desc]) i

/-! ## Responses -/

/-- Settles O59: each mode answers with `bc7Color` under its own descriptor. -/
theorem bc7ModesRespond : Obligations.Bc7ModesRespond := by
  intro s u q rest x y f hturn responds
  have hresp (j : Instr) (d : Bc7Desc) (hexec : exec j s = respond (bc7Color s.cfg d f (pixelIndex x y)) s) : responds j d :=
    hexec.trans (respond_serve _ hturn)
  exact ⟨hresp _ _ rfl, hresp _ _ rfl, hresp _ _ rfl, hresp _ _ rfl, hresp _ _ rfl, hresp _ _ rfl, hresp _ _ rfl, hresp _ _ rfl⟩

end Sys2Proof.Machine
end

section
/-! SUPPORT. The outcome of a request by its checks, in their order, and the frame of a fault (60_exceptions R300 to R307). -/

namespace Sys2Proof.Machine

/-! ## The latches after a request has ended -/

@[simp] theorem latchOf_finish_same (s : State) (u : Nat) (q : Request) (rest : List Agent) (o : ReqOutcome) :
    (s.finish u q rest o).latchOf u = none := by
  rw [State.latchOf, finish_units, List.getD_eq_getElem?_getD, List.getElem?_set_self']
  cases s.units[u]? <;> rfl

theorem latchOf_finish_of_ne (s : State) {u v : Nat} (q : Request) (rest : List Agent) (o : ReqOutcome) (hv : v ≠ u) :
    (s.finish u q rest o).latchOf v = s.latchOf v := by
  simp only [State.latchOf, finish_units, List.getD_eq_getElem?_getD, List.getElem?_set_ne hv.symm]

/-! ## Which ops have a block size -/

/-- The ops with a block size are the seven operations, and no block is empty (30_encoding R61). -/
theorem opSize_bounds {op : BitVec 4} {size : Nat} (h : opSize op = some size) : op.toNat < 7 ∧ 0 < size := by
  refine ⟨Nat.lt_of_not_le fun hop => ?_, Nat.pos_of_ne_zero ?_⟩
  · rw [opSize_reservedOp hop] at h
    cases h
  · rintro rfl
    unfold opSize at h
    split at h <;> cases h

theorem reservedOp_of_opSize_none {op : BitVec 4} (h : opSize op = none) : 7 ≤ op.toNat := by
  by_contra hop
  unfold opSize at h
  generalize op.toNat = n at h hop
  have hn : n < 7 := Nat.lt_of_not_le hop
  interval_cases n <;> cases h

/-! ## The checks of a request -/

section Checks

variable {s : State} {u : Nat} {q : Request} {rest : List Agent} {len size : Nat}

theorem step_reservedOp (hturn : s.turn = .serve u q rest) (hop : 7 ≤ (cmdOp q.cmd).toNat) :
    step s = .next (s.finish u q rest (.refused .reservedOp)) := by
  rw [step_serve hturn, serve_reservedOp hop, refuse_serve _ hturn]

theorem step_reservedField (hturn : s.turn = .serve u q rest) (hop : (cmdOp q.cmd).toNat < 7) (hrsv : cmdRsv q.cmd ≠ 0) :
    step s = .next (s.finish u q rest (.refused .reservedField)) := by
  rw [step_serve hturn, serve_reservedField hop hrsv, refuse_serve _ hturn]

/-- Past the checks of the command word, the step is the fetch of a block of the op's size and a response (R306). -/
theorem step_fetchesAndResponds (hturn : s.turn = .serve u q rest) (hsize : opSize (cmdOp q.cmd) = some size)
    (hrsv : cmdRsv q.cmd = 0) : ∃ k, (∀ blk, RespondsByConfig (k blk)) ∧ step s = withBlock q.off size k s := by
  obtain ⟨size', k, hsize', hk, hserve⟩ := fetchesAndResponds_of_op_lt (opSize_bounds hsize).1 hrsv
  obtain rfl : size = size' := Option.some.inj (hsize.symm.trans hsize')
  exact ⟨k, hk, (step_serve hturn).trans (hserve s)⟩

theorem step_outOfBounds (hturn : s.turn = .serve u q rest) (hopen : s.launch = some len)
    (hsize : opSize (cmdOp q.cmd) = some size) (hrsv : cmdRsv q.cmd = 0) (hout : len < q.off + size) :
    step s = .next (s.finish u q rest (.fault ⟨1, q.cmd, q.off, size⟩)) := by
  obtain ⟨k, -, hstep⟩ := step_fetchesAndResponds hturn hsize hrsv
  exact hstep.trans (fetch_faults (opSize_bounds hsize).2 hturn hopen hout)

/-- Every byte of the block exists, so the fetch gives a block, and every block has its response (R300). -/
theorem step_inBounds (hturn : s.turn = .serve u q rest) (hopen : s.launch = some len)
    (hsize : opSize (cmdOp q.cmd) = some size) (hrsv : cmdRsv q.cmd = 0) (hin : q.off + size ≤ len) :
    ∃ c, step s = .next (s.finish u q rest (.response c)) := by
  obtain ⟨k, hk, hstep⟩ := step_fetchesAndResponds hturn hsize hrsv
  have hblk : s.memRead q.off size = some (littleEndianSum s.mem q.off size) :=
    memRead_eq_littleEndianSum hopen fun _ _ => by omega
  obtain ⟨c, hc⟩ := hk (littleEndianSum s.mem q.off size)
  exact ⟨c s.cfg, by rw [hstep, withBlock_some hblk, hc, respond_serve _ hturn]⟩

end Checks

/-- Settles O10: the codes are read off, and each clause is the step under its check. -/
theorem outcomesFollowTheirPriority : Obligations.OutcomesFollowTheirPriority := by
  refine ⟨⟨rfl, rfl, rfl, fun .blockOutOfBounds => rfl, fun k => ?_⟩, fun s u q rest len hturn hopen => ?_⟩
  · cases k with
    | reservedOp => exact .inl rfl
    | reservedField => exact .inr rfl
  · exact ⟨step_reservedOp hturn, step_reservedField hturn, fun _ => step_outOfBounds hturn hopen,
      fun _ => step_inBounds hturn hopen⟩

/-! ## When the outcome is a response -/

theorem dutiesKept_of_opSize_none {q : Request} (h : opSize (cmdOp q.cmd) = none) (len : Nat) : dutiesKept len q = false := by
  simp only [dutiesKept, h]

theorem dutiesKept_of_opSize_some {q : Request} {size : Nat} (h : opSize (cmdOp q.cmd) = some size) (len : Nat) :
    dutiesKept len q = (decide (cmdRsv q.cmd = 0) && decide (q.off + size ≤ len)) := by
  simp only [dutiesKept, h]

/-- Settles O11: of the four ends of a request, the response is the one in which the op has a size, `rsv` is 0 and the block is in
bounds. -/
theorem responseExactlyWhenDutiesKept : Obligations.ResponseExactlyWhenDutiesKept := by
  intro s u q rest len hturn hopen
  cases hsize : opSize (cmdOp q.cmd) with
  | none =>
    rw [dutiesKept_of_opSize_none hsize]
    exact ⟨_, step_reservedOp hturn (reservedOp_of_opSize_none hsize), rfl⟩
  | some size =>
    rw [dutiesKept_of_opSize_some hsize]
    by_cases hrsv : cmdRsv q.cmd = 0
    · rcases Nat.lt_or_ge len (q.off + size) with hout | hin
      · exact ⟨_, step_outOfBounds hturn hopen hsize hrsv hout, by simp [ReqOutcome.isResponse, hout]⟩
      · obtain ⟨c, hc⟩ := step_inBounds hturn hopen hsize hrsv hin
        exact ⟨_, hc, by simp [ReqOutcome.isResponse, hrsv, hin]⟩
    · exact ⟨_, step_reservedField hturn (opSize_bounds hsize).1 hrsv, by rw [decide_eq_false hrsv, Bool.false_and]; rfl⟩

/-! ## The fault -/

theorem exec_decBc6hUf16 (x y : Coord) (off : Nat) (s : State) :
    exec (.decBc6hUf16 x y off) s = withBlock off 16 (runBc6h .uf16 x y) s := rfl

theorem exec_decBc6hSf16 (x y : Coord) (off : Nat) (s : State) :
    exec (.decBc6hSf16 x y off) s = withBlock off 16 (runBc6h .sf16 x y) s := rfl

theorem exec_decBc7 (x y : Coord) (off : Nat) (s : State) :
    exec (.decBc7 x y off) s = withBlock off 16 (runBc7 x y) s := rfl

/-- Settles O12: each meaning begins with the fetch of its block, which faults, and ending the request changes nothing but its unit,
the outcomes and the schedule. -/
theorem outOfBoundsBlockTakesTheFault : Obligations.OutOfBoundsBlockTakesTheFault := by
  intro s u q rest len x y off hturn hopen takes
  have htakes {i : Instr} {size : Nat} {k : Nat → State → Host.Outcome State Fault Refusal} (hsize : 0 < size)
      (hout : len < off + size) (hexec : exec i s = withBlock off size k s) : takes i size :=
    ⟨_, hexec.trans (fetch_faults hsize hturn hopen hout), finish_outcomes .., latchOf_finish_same ..,
      fun _ => latchOf_finish_of_ne s q rest _, finish_launch .., finish_launchStart ..,
      readByte_congr (finish_launch ..) (finish_mem ..), finish_cfg .., finish_host .., finish_schedule ..⟩
  refine ⟨fun hout => ?_, fun hout => ?_⟩
  · have hpos : 0 < 8 := by decide
    exact ⟨htakes hpos hout (exec_decBc1 ..), htakes hpos hout (exec_decBc4 ..)⟩
  · have hpos : 0 < 16 := by decide
    exact ⟨htakes hpos hout (exec_decBc3 ..), htakes hpos hout (exec_decBc5 ..), htakes hpos hout (exec_decBc6hUf16 ..),
      htakes hpos hout (exec_decBc6hSf16 ..), htakes hpos hout (exec_decBc7 ..)⟩

end Sys2Proof.Machine
end

section
/-! SUPPORT. Reset with requests in flight (70_reset_and_hazards R331). -/

namespace Sys2Proof.Machine

theorem step_host {s : State} {rest : List Agent} (hturn : s.turn = .host rest) : step s = .next (s.hostTurn rest) := by
  simp only [step, hturn]

/-- The host may assert reset at any time, whatever is in flight (70 R340). -/
theorem step_reset {s : State} {rest : List Agent} {ms : List HostMove} (hturn : s.turn = .host rest)
    (hhost : s.host = .reset :: ms) : step s = .next { s.makeMove .reset with host := ms, schedule := rest } := by
  rw [step_host hturn, hostTurn_of_mayMove hhost rfl]

theorem resetMove_allIdle (s : State) : (s.makeMove .reset).allIdle = true := by
  simp only [State.allIdle, resetMove_units, List.all_map, List.all_eq_true]
  exact fun _ _ => rfl

/-- Settles O6: the reset move empties every latch and leaves every other field; the host's turn then takes the move and the entry of
the schedule away. -/
theorem resetDropsRequestsInFlight : Obligations.ResetDropsRequestsInFlight := by
  intro s rest ms hturn hhost
  have hlength : (s.makeMove .reset).units.length = s.units.length := by rw [resetMove_units, List.length_map]
  exact ⟨_, step_reset hturn hhost, resetMove_allIdle s, hlength, makeMove_outcomes .., makeMove_cfg .., resetMove_launch ..,
    resetMove_launchStart .., readByte_congr (resetMove_launch s) (resetMove_mem s), rfl, rfl⟩

end Sys2Proof.Machine
end

section
/-! SUPPORT. What every step keeps: the invariant, the parameters and the outcomes delivered; and the frame of every instruction
(10_state, 60_exceptions R300, 70_reset_and_hazards R333 to R340). -/

namespace Sys2Proof.Machine

/-! ## The invariant -/

/-- `State.Inv` clause by clause. -/
structure State.Invariant (s : State) : Prop where
  hasUnit : s.units ≠ []
  addrW_pos : 1 ≤ s.cfg.addrW
  latchesFit : ∀ d ∈ s.units, d.fits s.cfg.addrW = true
  began : s.launchStart ≤ s.outcomes.length
  buffer : ∀ len, s.launch = some len → len ≤ 2 ^ s.cfg.addrW ∧ Memory.wf len s.mem = true
  closed : s.launch = none → s.mem = [] ∧ s.allIdle = true

theorem inv_iff (s : State) : s.Inv = true ↔ s.Invariant := by
  have hclauses : s.Invariant ↔ s.units ≠ [] ∧ 1 ≤ s.cfg.addrW ∧ (∀ d ∈ s.units, d.fits s.cfg.addrW = true) ∧
      s.launchStart ≤ s.outcomes.length ∧
      (∀ len, s.launch = some len → len ≤ 2 ^ s.cfg.addrW ∧ Memory.wf len s.mem = true) ∧
      (s.launch = none → s.mem = [] ∧ s.allIdle = true) :=
    ⟨fun h => ⟨h.hasUnit, h.addrW_pos, h.latchesFit, h.began, h.buffer, h.closed⟩,
      fun ⟨hunit, haddr, hfit, hbegan, hbuffer, hclosed⟩ => ⟨hunit, haddr, hfit, hbegan, hbuffer, hclosed⟩⟩
  rw [hclauses]
  cases h : s.launch <;> simp [State.Inv, h, and_assoc]

theorem allIdle_iff (s : State) : s.allIdle = true ↔ ∀ d ∈ s.units, d.latch = none := by
  simp [State.allIdle]

/-- An idle unit fits any width. -/
theorem fits_idle (addrW : Nat) : DecoderUnit.fits addrW ⟨none⟩ = true := rfl

theorem invariant_finish {s : State} (h : s.Invariant) (u : Nat) (q : Request) (rest : List Agent) (o : ReqOutcome) :
    (s.finish u q rest o).Invariant where
  hasUnit := by simpa using h.hasUnit
  addrW_pos := h.addrW_pos
  latchesFit := fun d hd => by
    rcases List.mem_or_eq_of_mem_set hd with hd | rfl
    · exact h.latchesFit d hd
    · exact fits_idle _
  began := by simpa using Nat.le_succ_of_le h.began
  buffer := h.buffer
  closed := fun hnone => by
    obtain ⟨hmem, hidle⟩ := h.closed hnone
    refine ⟨hmem, (allIdle_iff _).mpr fun d hd => ?_⟩
    rcases List.mem_or_eq_of_mem_set hd with hd | rfl
    · exact (allIdle_iff s).mp hidle d hd
    · rfl

/-- Each move the host may make keeps the invariant: what `mayMove` asks of a move is what the clause it touches needs. -/
theorem invariant_makeMove {s : State} (h : s.Invariant) {m : HostMove} (hmay : s.mayMove m = true) :
    (s.makeMove m).Invariant := by
  cases m with
  | launch bytes =>
    simp only [State.mayMove, Bool.and_eq_true, decide_eq_true_eq] at hmay
    refine { h with began := le_rfl, buffer := ?_, closed := ?_ }
    · rintro len ⟨⟩
      exact ⟨hmay.2, ofBytes_wf bytes⟩
    · rintro ⟨⟩
  | issue u q =>
    simp only [State.mayMove, Bool.and_eq_true, decide_eq_true_eq] at hmay
    obtain ⟨⟨⟨hopen, -⟩, -⟩, hoff⟩ := hmay
    refine { h with hasUnit := ?_, latchesFit := fun d hd => ?_, closed := fun hnone => ?_ }
    · simpa using h.hasUnit
    · rcases List.mem_or_eq_of_mem_set hd with hd | rfl
      · exact h.latchesFit d hd
      · exact decide_eq_true hoff
    · rw [issue_launch] at hnone
      simp [hnone] at hopen
  | reset =>
    refine { h with hasUnit := ?_, latchesFit := ?_, closed := fun hnone => ⟨(h.closed hnone).1, resetMove_allIdle s⟩ }
    · simpa using h.hasUnit
    · simp [fits_idle]
  | endLaunch =>
    simp only [State.mayMove, Bool.and_eq_true] at hmay
    refine { h with buffer := ?_, closed := fun _ => ⟨rfl, hmay.2⟩ }
    rintro len ⟨⟩

theorem invariant_hostTurn {s : State} (h : s.Invariant) (rest : List Agent) : (s.hostTurn rest).Invariant := by
  obtain hwait | ⟨m, ms, -, hmay, hmove⟩ := hostTurn_cases s rest
  · rw [hwait]
    exact { h with }
  · rw [hmove]
    exact { invariant_makeMove h hmay with }

/-- Settles O3: a request that is served ends, the host waits or makes a move it may make, or an idle unit waits. -/
theorem everyStepKeepsStateInvariant : Obligations.EveryStepKeepsStateInvariant := by
  intro s t hs hstep
  rw [inv_iff] at hs ⊢
  obtain ⟨u, q, rest, hturn, -⟩ | ⟨rest, -, hhost⟩ | ⟨rest, -, hwait⟩ := step_cases s
  · obtain ⟨o, ho⟩ := step_serve_finishes hturn
    obtain rfl : s.finish u q rest o = t := by simpa [ho] using hstep
    exact invariant_finish hs u q rest o
  · obtain rfl : s.hostTurn rest = t := by simpa [hhost] using hstep
    exact invariant_hostTurn hs rest
  · obtain rfl : { s with schedule := rest } = t := by simpa [hwait] using hstep
    exact { hs with }

/-! ## Reset -/

/-- Settles O1: the fields of the reset state are read off. -/
theorem resetLeavesEveryUnitIdle : Obligations.ResetLeavesEveryUnitIdle :=
  ⟨rfl, List.cons_ne_nil _ _, rfl, rfl, rfl⟩

/-- Settles O2: one idle unit, 32 address bits, no launch and no buffer. -/
theorem resetMeetsStateInvariant : Obligations.ResetMeetsStateInvariant := by
  refine (inv_iff _).mpr ⟨List.cons_ne_nil _ _, by decide, by decide, le_rfl, ?_, fun _ => ⟨rfl, rfl⟩⟩
  rintro len ⟨⟩

/-! ## Every step goes on -/

theorem makeMove_units_length (s : State) (m : HostMove) : (s.makeMove m).units.length = s.units.length := by
  cases m <;> simp

theorem hostTurn_frame (s : State) (rest : List Agent) :
    (s.hostTurn rest).cfg = s.cfg ∧ (s.hostTurn rest).units.length = s.units.length ∧
      (s.hostTurn rest).outcomes = s.outcomes := by
  obtain hwait | ⟨m, ms, -, -, hmove⟩ := hostTurn_cases s rest
  · rw [hwait]
    exact ⟨rfl, rfl, rfl⟩
  · rw [hmove]
    exact ⟨makeMove_cfg s m, makeMove_units_length s m, makeMove_outcomes s m⟩

/-- Settles O4: only the end of a request adds an outcome, and it adds one. -/
theorem everyStepGoesOnAndKeepsParameters : Obligations.EveryStepGoesOnAndKeepsParameters := by
  intro s
  obtain ⟨u, q, rest, hturn, -⟩ | ⟨rest, -, hhost⟩ | ⟨rest, -, hwait⟩ := step_cases s
  · obtain ⟨o, ho⟩ := step_serve_finishes hturn
    exact ⟨_, ho, rfl, by simp, [⟨q, o⟩], rfl, le_rfl⟩
  · obtain ⟨hcfg, hunits, houtcomes⟩ := hostTurn_frame s rest
    exact ⟨_, hhost, hcfg, hunits, [], by simp [houtcomes], Nat.zero_le 1⟩
  · exact ⟨_, hwait, rfl, rfl, [], by simp, Nat.zero_le 1⟩

/-- Settles O9: the step is `serve`, and `serve` is the one or the other by what the decoder says. -/
theorem stepRunsTheDecodedRequest : Obligations.StepRunsTheDecodedRequest := by
  intro s u q rest hturn
  rw [step_serve hturn]
  refine ⟨fun i hdec => ?_, fun hdec => ?_⟩
  · simp only [serve, hdec]
  · simp only [serve, hdec]

/-! ## The frame of every instruction -/

/-- Whatever the instruction does, it ends the request being served, and that is all it does. -/
def EndsRequest (k : State → Host.Outcome State Fault Refusal) : Prop := ∀ s, ∃ o, k s = deliver o s

theorem endsRequest_of_respondsByConfig {k : State → Host.Outcome State Fault Refusal} (h : RespondsByConfig k) :
    EndsRequest k := fun s =>
  have ⟨_, hc⟩ := h
  ⟨_, hc s⟩

theorem endsRequest_withBlock (off size : Nat) {k : Nat → State → Host.Outcome State Fault Refusal}
    (hk : ∀ blk, RespondsByConfig (k blk)) : EndsRequest (withBlock off size k) := by
  intro s
  obtain ⟨-, hfault⟩ | ⟨blk, -, hfetch⟩ := withBlock_cases off size k s
  · exact ⟨_, hfault⟩
  · obtain ⟨o, ho⟩ := endsRequest_of_respondsByConfig (hk blk) s
    exact ⟨o, hfetch.trans ho⟩

/-- The request level fetches a block or refuses; the block level responds. -/
theorem exec_endsRequest (i : Instr) : EndsRequest (exec i) := by
  cases i
  case decBc1 x y off => exact endsRequest_withBlock off 8 fun blk => respondsByConfig_respond (bc1Color · blk _)
  case decBc3 x y off => exact endsRequest_withBlock off 16 fun blk => respondsByConfig_respond (bc3Color · blk _)
  case decBc4 x y off => exact endsRequest_withBlock off 8 fun blk => respondsByConfig_respond (bc4Color · blk _)
  case decBc5 x y off => exact endsRequest_withBlock off 16 fun blk => respondsByConfig_respond (bc5Color · blk _)
  case decBc6hUf16 x y off => exact endsRequest_withBlock off 16 (runBc6h_respondsByConfig .uf16 x y)
  case decBc6hSf16 x y off => exact endsRequest_withBlock off 16 (runBc6h_respondsByConfig .sf16 x y)
  case decBc7 x y off => exact endsRequest_withBlock off 16 (runBc7_respondsByConfig x y)
  all_goals exact fun s => ⟨_, rfl⟩

/-- Settles O14: the instruction ends the request being served, and the end of a request changes its unit, the outcomes and the
schedule alone. -/
theorem everyInstructionChangesOnlyItsRequest : Obligations.EveryInstructionChangesOnlyItsRequest := by
  intro i s t hexec
  obtain ⟨o, ho⟩ := exec_endsRequest i s
  obtain ⟨u, q, rest, hturn, rfl⟩ := deliver_next (ho.symm.trans hexec)
  exact ⟨u, q, rest, o q, hturn, turn_latchOf hturn, latchOf_finish_same .., fun _ => latchOf_finish_of_ne s q rest _,
    List.length_set, finish_outcomes .., finish_launchStart .., finish_cfg .., finish_launch .., finish_mem ..,
    readByte_congr (finish_launch ..) (finish_mem ..), finish_host .., finish_schedule ..⟩

end Sys2Proof.Machine
end

section
/-! SUPPORT. Both directions of the code for BC6H: a field is put together from the parts its rows hold, and a mode's layout takes
every bit of the block once (44_bc6h R200, R204 to R218). -/

namespace Sys2Proof

/-! ## A field from its parts -/

/-- The field bits of the rows go from bit `n - 1` down to bit 0, each row where the one before it ends. -/
def descends : Nat → List Bc6hRow → Bool
  | n, [] => decide (n = 0)
  | n, r :: rest => decide (r.fhi + 1 = n) && decide (r.flo ≤ r.fhi) && descends r.flo rest

theorem descends_nil {n : Nat} : descends n [] = true ↔ n = 0 := by simp [descends]

theorem descends_cons {n : Nat} {r : Bc6hRow} {rest : List Bc6hRow} :
    descends n (r :: rest) = true ↔ r.fhi + 1 = n ∧ r.flo ≤ r.fhi ∧ descends r.flo rest = true := by
  simp [descends, and_assoc]

theorem fhi_lt_of_descends {n : Nat} {rows : List Bc6hRow} (h : descends n rows = true) : ∀ r ∈ rows, r.fhi < n := by
  induction rows generalizing n with
  | nil => simp
  | cons r rest ih =>
    obtain ⟨rfl, hle, hrest⟩ := descends_cons.mp h
    exact List.forall_mem_cons.mpr ⟨Nat.lt_succ_self _, fun r' hr' => (ih hrest r' hr').trans (by omega)⟩

/-- The value with `part r` at the place of each row. -/
def assembled (part : Bc6hRow → Nat) (rows : List Bc6hRow) : Nat := (rows.map fun r => part r * 2 ^ r.flo).sum

theorem assembled_cons (part : Bc6hRow → Nat) (r : Bc6hRow) (rows : List Bc6hRow) :
    assembled part (r :: rows) = part r * 2 ^ r.flo + assembled part rows := rfl

theorem assembled_perm (part : Bc6hRow → Nat) {rows rows' : List Bc6hRow} (h : rows.Perm rows') :
    assembled part rows = assembled part rows' := (h.map _).sum_eq

theorem two_pow_succ_eq_mul {hi lo : Nat} (h : lo ≤ hi) : 2 ^ (hi + 1) = 2 ^ lo * 2 ^ (hi + 1 - lo) := by
  rw [← pow_add, Nat.add_sub_cancel' (by omega)]

/-- The top bits of a value and the rest. -/
theorem slice_mul_add_mod (v : Nat) {hi lo : Nat} (h : lo ≤ hi) :
    slice v hi lo * 2 ^ lo + v % 2 ^ lo = v % 2 ^ (hi + 1) := by
  rw [slice, Nat.shiftRight_eq_div_pow, two_pow_succ_eq_mul h, Nat.mod_mul, Nat.mul_comm, Nat.add_comm]

/-- A part put on top of a rest is read back, and below it the rest. -/
theorem slice_mul_add_top {a b hi lo : Nat} (ha : a < 2 ^ (hi + 1 - lo)) (hb : b < 2 ^ lo) : slice (a * 2 ^ lo + b) hi lo = a := by
  rw [slice, Nat.shiftRight_eq_div_pow, Nat.mul_comm, Nat.mul_add_div (Nat.two_pow_pos lo), Nat.div_eq_of_lt hb, Nat.add_zero,
    Nat.mod_eq_of_lt ha]

theorem slice_mul_add_below (a b : Nat) {n hi lo : Nat} (h : hi < n) : slice (a * 2 ^ n + b) hi lo = slice b hi lo := by
  obtain ⟨k, rfl⟩ : ∃ k, n = hi + 1 + k := ⟨n - (hi + 1), by omega⟩
  refine Nat.eq_of_testBit_eq fun j => ?_
  rw [Machine.testBit_slice, Machine.testBit_slice]
  by_cases hj : lo + j ≤ hi
  · have hmod : (a * 2 ^ (hi + 1 + k) + b) % 2 ^ (hi + 1) = b % 2 ^ (hi + 1) := by
      rw [pow_add, Nat.mul_left_comm, Nat.add_comm, Nat.add_mul_mod_self_left]
    have hbit := congrArg (Nat.testBit · (lo + j)) hmod
    simp only [Nat.testBit_mod_two_pow, Nat.lt_succ_of_le hj, decide_true, Bool.true_and] at hbit
    rw [hbit]
  · simp [hj]

/-- A value is put together from its own parts. -/
theorem assembled_slice {n : Nat} {rows : List Bc6hRow} (h : descends n rows = true) (v : Nat) :
    assembled (fun r => slice v r.fhi r.flo) rows = v % 2 ^ n := by
  induction rows generalizing n with
  | nil =>
    obtain rfl := descends_nil.mp h
    exact (Nat.mod_one v).symm
  | cons r rest ih =>
    obtain ⟨rfl, hle, hrest⟩ := descends_cons.mp h
    rw [assembled_cons, ih hrest, slice_mul_add_mod v hle]

/-- Parts that fit their rows make a value of `n` bits, in which each is found again. -/
theorem slice_assembled {n : Nat} {rows : List Bc6hRow} {part : Bc6hRow → Nat} (h : descends n rows = true)
    (hpart : ∀ r ∈ rows, part r < 2 ^ (r.fhi + 1 - r.flo)) :
    assembled part rows < 2 ^ n ∧ ∀ r ∈ rows, slice (assembled part rows) r.fhi r.flo = part r := by
  induction rows generalizing n with
  | nil => simp [assembled]
  | cons r rest ih =>
    obtain ⟨rfl, hle, hrest⟩ := descends_cons.mp h
    obtain ⟨hr, hpart⟩ := List.forall_mem_cons.mp hpart
    obtain ⟨hlt, hslice⟩ := ih hrest hpart
    have hnext : (part r + 1) * 2 ^ r.flo ≤ 2 ^ (r.fhi + 1) := by
      rw [two_pow_succ_eq_mul hle, Nat.mul_comm]
      exact Nat.mul_le_mul_left _ hr
    rw [assembled_cons]
    refine ⟨by rw [Nat.add_mul] at hnext; omega, List.forall_mem_cons.mpr ⟨slice_mul_add_top hr hlt, fun r' hr' => ?_⟩⟩
    rw [slice_mul_add_below _ _ (fhi_lt_of_descends hrest r' hr'), hslice r' hr']

/-! ## The parts a layout holds -/

/-- The part of its field that a row holds in a block, a reversed one read backwards (44_bc6h R204, R217). -/
def Bc6hRow.part (blk : Nat) (r : Bc6hRow) : Nat :=
  if r.rev then reverseBits (r.hi + 1 - r.lo) (slice blk r.hi r.lo) else slice blk r.hi r.lo

theorem part_lt {r : Bc6hRow} (hlen : r.fhi + r.lo = r.hi + r.flo) (blk : Nat) : r.part blk < 2 ^ (r.fhi + 1 - r.flo) := by
  have hw : r.fhi + 1 - r.flo = r.hi + 1 - r.lo := by omega
  rw [hw, Bc6hRow.part]
  split
  · exact reverseBits_lt _ _
  · exact slice_lt blk r.hi r.lo

/-- A row of a field that holds the row's own part is written as the block bits it was read from. -/
theorem write_of_slice_eq_part {r : Bc6hRow} {blk v : Nat} (h : slice v r.fhi r.flo = r.part blk) :
    r.write v = slice blk r.hi r.lo := by
  rw [Bc6hRow.write, h, Bc6hRow.part]
  by_cases hrev : r.rev = true
  · simp only [hrev, if_true, reverseBits_reverseBits _ _ (slice_lt blk r.hi r.lo)]
  · simp only [hrev, Bool.false_eq_true, if_false]

/-- The rows of a field, from its top bits down. -/
def fieldRows (rows : List Bc6hRow) (fld : Bc6hField) : List Bc6hRow :=
  (rows.filter fun r => r.fld = fld).insertionSort fun r r' => r'.flo ≤ r.flo

theorem fieldRows_perm (rows : List Bc6hRow) (fld : Bc6hField) :
    (rows.filter fun r => r.fld = fld).Perm (fieldRows rows fld) := (List.perm_insertionSort _ _).symm

theorem mem_fieldRows {rows : List Bc6hRow} {fld : Bc6hField} {r : Bc6hRow} :
    r ∈ fieldRows rows fld ↔ r ∈ rows ∧ r.fld = fld := by
  rw [← (fieldRows_perm rows fld).mem_iff, List.mem_filter, decide_eq_true_eq]

theorem fieldAt_eq_assembled (rows : List Bc6hRow) (blk : Nat) (fld : Bc6hField) :
    fieldAt rows blk fld = assembled (Bc6hRow.part blk) (fieldRows rows fld) :=
  assembled_perm _ (fieldRows_perm rows fld)

theorem fhi_add_lo_of_rowsFrom {lo : Nat} {rows : List Bc6hRow} (h : rowsFrom lo rows = true) :
    ∀ r ∈ rows, r.fhi + r.lo = r.hi + r.flo := by
  induction rows generalizing lo with
  | nil => simp
  | cons r rest ih =>
    simp only [rowsFrom, Bool.and_eq_true, decide_eq_true_eq] at h
    obtain ⟨⟨-, hlen⟩, hrest⟩ := h
    exact List.forall_mem_cons.mpr ⟨hlen, ih hrest⟩

/-- A layout of rows one after another that hold each field of the width `width` bit by bit. -/
structure Covers (len : Nat) (rows : List Bc6hRow) (width : Bc6hField → Nat) : Prop where
  inOrder : rowsFrom len rows = true
  fills : layoutWidth len rows = 128
  fields : ∀ fld, descends (width fld) (fieldRows rows fld) = true

section Covers

variable {len : Nat} {rows : List Bc6hRow} {width : Bc6hField → Nat}

/-- What a field of the packed block reads. -/
theorem fieldAt_packRows_of_covers (h : Covers len rows width) (code : Nat) (get : Bc6hField → Nat) (fld : Bc6hField) :
    fieldAt rows (packRows code len rows get) fld = get fld % 2 ^ width fld := by
  rw [fieldAt_packRows code len rows get fld h.inOrder, ← assembled_slice (h.fields fld)]
  exact assembled_perm _ (fieldRows_perm rows fld)

theorem slice_fieldAt (h : Covers len rows width) (blk : Nat) (fld : Bc6hField) :
    fieldAt rows blk fld < 2 ^ width fld ∧
      ∀ r ∈ rows, r.fld = fld → slice (fieldAt rows blk fld) r.fhi r.flo = r.part blk := by
  have hparts := slice_assembled (part := Bc6hRow.part blk) (h.fields fld) fun r hr =>
    part_lt (fhi_add_lo_of_rowsFrom h.inOrder r (mem_fieldRows.mp hr).1) blk
  rw [← fieldAt_eq_assembled] at hparts
  exact ⟨hparts.1, fun r hr hfld => hparts.2 r (mem_fieldRows.mpr ⟨hr, hfld⟩)⟩

end Covers

/-! ## A block from its bits -/

/-- A packed list holds the bits of a block from `pos` up if its first field holds the next bits and the others the bits above
them. -/
theorem pack_cons_eq_shift {blk pos v n : Nat} {rest : List (Nat × Nat)} (hv : v % 2 ^ n = (blk >>> pos) % 2 ^ n)
    (hrest : pack rest = blk >>> (pos + n)) : pack ((v, n) :: rest) = blk >>> pos := by
  rw [pack, hv, hrest, Nat.shiftRight_add, Nat.shiftRight_eq_div_pow (blk >>> pos), Nat.mod_add_div]

theorem pack_rows_eq_shift {get : Bc6hField → Nat} {blk lo : Nat} {rows : List Bc6hRow} (h : rowsFrom lo rows = true)
    (hblk : blk < 2 ^ layoutWidth lo rows) (hrows : ∀ r ∈ rows, r.write (get r.fld) = slice blk r.hi r.lo) :
    pack (rows.map fun r => (r.write (get r.fld), r.hi + 1 - r.lo)) = blk >>> lo := by
  induction rows generalizing lo with
  | nil => exact (Nat.shiftRight_eq_zero blk lo (by simpa [layoutWidth] using hblk)).symm
  | cons r rest ih =>
    simp only [rowsFrom, Bool.and_eq_true, decide_eq_true_eq] at h
    obtain ⟨⟨⟨rfl, hle⟩, -⟩, hrest⟩ := h
    obtain ⟨hr, hrows⟩ := List.forall_mem_cons.mp hrows
    have hnext : r.lo + (r.hi + 1 - r.lo) = r.hi + 1 := by omega
    have hwidth : layoutWidth r.lo (r :: rest) = layoutWidth (r.hi + 1) rest := by
      simp only [layoutWidth, List.map_cons, List.sum_cons]
      omega
    refine pack_cons_eq_shift ?_ ?_
    · rw [hr, slice, Nat.mod_mod]
    · rw [hnext]
      exact ih hrest (hwidth ▸ hblk) hrows

/-- Every bit of a block is in its code or in one of its fields. -/
theorem packRows_eq_of_fields {len : Nat} {rows : List Bc6hRow} {width : Bc6hField → Nat} (h : Covers len rows width)
    {code blk : Nat} {get : Bc6hField → Nat} (hblk : blk < 2 ^ 128) (hcode : blk % 2 ^ len = code)
    (hget : ∀ fld, get fld = fieldAt rows blk fld) : packRows code len rows get = blk := by
  refine pack_cons_eq_shift (pos := 0) ?_ ?_
  · rw [← hcode, Nat.mod_mod, Nat.shiftRight_zero]
  · rw [Nat.zero_add]
    refine pack_rows_eq_shift h.inOrder (h.fills ▸ hblk) fun r hr => write_of_slice_eq_part ?_
    rw [hget]
    exact (slice_fieldAt h blk r.fld).2 r hr rfl

/-! ## The layouts of the modes -/

/-- The layout of a mode; a reserved code has none. -/
def Bc6hMode.layout : Bc6hMode → List Bc6hRow
  | .m1 => bc6hLayout1
  | .m2 => bc6hLayout2
  | .m3 => bc6hLayout3
  | .m4 => bc6hLayout4
  | .m5 => bc6hLayout5
  | .m6 => bc6hLayout6
  | .m7 => bc6hLayout7
  | .m8 => bc6hLayout8
  | .m9 => bc6hLayout9
  | .m10 => bc6hLayout10
  | .m11 => bc6hLayout11
  | .m12 => bc6hLayout12
  | .m13 => bc6hLayout13
  | .m14 => bc6hLayout14
  | .r13 | .r17 | .r1B | .r1F => []

/-- The width of a field by the descriptor of its mode; a one-subset mode has no `y`, `z` and no partition (44_bc6h R201, R204). -/
def fieldWidth (d : Machine.Bc6hDesc) : Bc6hField → Nat
  | .rW | .gW | .bW => d.epb
  | .rX => d.dr
  | .gX => d.dg
  | .bX => d.db
  | .rY | .rZ => if d.ns = 2 then d.dr else 0
  | .gY | .gZ => if d.ns = 2 then d.dg else 0
  | .bY | .bZ => if d.ns = 2 then d.db else 0
  | .p => if d.ns = 2 then 5 else 0
  | .idx => d.idxBits

theorem layout_fields (m : Bc6hMode) (fld : Bc6hField) :
    descends (fieldWidth (Machine.bc6hDesc m) fld) (fieldRows m.layout fld) = true := by
  cases m <;> cases fld <;> rfl

/-- Every mode with a descriptor has a layout that covers its block (44_bc6h R204). -/
theorem layout_covers {m : Bc6hMode} (hm : (Machine.bc6hDesc m).ns ≠ 0) :
    Covers (m.field.1 + 1) m.layout (fieldWidth (Machine.bc6hDesc m)) where
  inOrder := by cases m <;> rfl
  fills := by
    cases m
    case r13 | r17 | r1B | r1F => exact absurd rfl hm
    all_goals rfl
  fields := layout_fields m

/-! ## The fields of a block by name -/

/-- A two-subset block's fields from a value for each name. -/
def Bc6hTwo.ofGet (get : Bc6hField → Nat) : Bc6hTwo where
  w := ⟨get .rW, get .gW, get .bW⟩
  x := ⟨get .rX, get .gX, get .bX⟩
  y := ⟨get .rY, get .gY, get .bY⟩
  z := ⟨get .rZ, get .gZ, get .bZ⟩
  p := get .p
  idx := get .idx

/-- A one-subset block's fields from a value for each name. -/
def Bc6hOne.ofGet (get : Bc6hField → Nat) : Bc6hOne where
  w := ⟨get .rW, get .gW, get .bW⟩
  x := ⟨get .rX, get .gX, get .bX⟩
  idx := get .idx

theorem Bc6hTwo.ofGet_get (f : Bc6hTwo) : .ofGet f.get = f := rfl

theorem Bc6hOne.ofGet_get (f : Bc6hOne) : .ofGet f.get = f := rfl

theorem Bc6hTwo.get_ofBlock (rows : List Bc6hRow) (blk : Nat) (fld : Bc6hField) :
    (Bc6hTwo.ofBlock rows blk).get fld = fieldAt rows blk fld := by
  cases fld <;> rfl

theorem forall_field {P : Bc6hField → Prop} : (∀ fld, P fld) ↔
    (P .rW ∧ P .gW ∧ P .bW) ∧ (P .rX ∧ P .gX ∧ P .bX) ∧ (P .rY ∧ P .gY ∧ P .bY) ∧ (P .rZ ∧ P .gZ ∧ P .bZ) ∧ P .p ∧ P .idx := by
  constructor
  · intro h
    simp only [h, and_self]
  · rintro ⟨⟨_, _, _⟩, ⟨_, _, _⟩, ⟨_, _, _⟩, ⟨_, _, _⟩, _, _⟩ fld
    cases fld <;> assumption

section Fits

variable {d : Machine.Bc6hDesc}

/-- A two-subset block is well-formed just if every field fits its width. -/
theorem Bc6hTwo.fits_iff (hns : d.ns = 2) (f : Bc6hTwo) : f.fits d = true ↔ ∀ fld, f.get fld < 2 ^ fieldWidth d fld := by
  simp [forall_field, Bc6hTwo.fits, Rgb.fits, Sys2Proof.fits, fieldWidth, Bc6hTwo.get, hns, and_assoc]

/-- A one-subset block is well-formed just if every field fits its width, which is 0 for the fields it does not have. -/
theorem Bc6hOne.fits_iff (hns : d.ns = 1) (f : Bc6hOne) : f.fits d = true ↔ ∀ fld, f.get fld < 2 ^ fieldWidth d fld := by
  simp [forall_field, Bc6hOne.fits, Rgb.fits, Sys2Proof.fits, fieldWidth, Bc6hOne.get, hns, and_assoc]

end Fits

section Mode

variable {m : Bc6hMode}

/-- The fields a one-subset mode does not have take no bits. -/
theorem Bc6hOne.get_ofBlock (hns : (Machine.bc6hDesc m).ns = 1) (blk : Nat) (fld : Bc6hField) :
    (Bc6hOne.ofBlock m.layout blk).get fld = fieldAt m.layout blk fld := by
  have hlt := (slice_fieldAt (layout_covers (m := m) (by omega)) blk fld).1
  cases fld
  case rY | gY | bY | rZ | gZ | bZ | p => simpa [fieldWidth, hns, Bc6hOne.get, eq_comm] using hlt
  all_goals rfl

theorem bc6hTwo_ofBlock_fits (hns : (Machine.bc6hDesc m).ns = 2) (blk : Nat) :
    (Bc6hTwo.ofBlock m.layout blk).fits (Machine.bc6hDesc m) = true := by
  refine (Bc6hTwo.fits_iff hns _).mpr fun fld => ?_
  rw [Bc6hTwo.get_ofBlock]
  exact (slice_fieldAt (layout_covers (m := m) (by omega)) blk fld).1

theorem bc6hOne_ofBlock_fits (hns : (Machine.bc6hDesc m).ns = 1) (blk : Nat) :
    (Bc6hOne.ofBlock m.layout blk).fits (Machine.bc6hDesc m) = true := by
  refine (Bc6hOne.fits_iff hns _).mpr fun fld => ?_
  rw [Bc6hOne.get_ofBlock hns]
  exact (slice_fieldAt (layout_covers (m := m) (by omega)) blk fld).1

/-- What is packed by a mode's layout reads as fields that fit. -/
theorem fieldAt_packRows_layout (hns : (Machine.bc6hDesc m).ns ≠ 0) {get : Bc6hField → Nat}
    (hget : ∀ fld, get fld < 2 ^ fieldWidth (Machine.bc6hDesc m) fld) :
    fieldAt m.layout (packRows m.field.2 (m.field.1 + 1) m.layout get) = get := by
  funext fld
  rw [fieldAt_packRows_of_covers (layout_covers hns), Nat.mod_eq_of_lt (hget fld)]

theorem bc6hTwo_ofBlock_packRows (hns : (Machine.bc6hDesc m).ns = 2) {f : Bc6hTwo} (hf : f.fits (Machine.bc6hDesc m) = true) :
    Bc6hTwo.ofBlock m.layout (packRows m.field.2 (m.field.1 + 1) m.layout f.get) = f :=
  (congrArg Bc6hTwo.ofGet (fieldAt_packRows_layout (by omega) ((Bc6hTwo.fits_iff hns f).mp hf))).trans (Bc6hTwo.ofGet_get f)

theorem bc6hOne_ofBlock_packRows (hns : (Machine.bc6hDesc m).ns = 1) {f : Bc6hOne} (hf : f.fits (Machine.bc6hDesc m) = true) :
    Bc6hOne.ofBlock m.layout (packRows m.field.2 (m.field.1 + 1) m.layout f.get) = f :=
  (congrArg Bc6hOne.ofGet (fieldAt_packRows_layout (by omega) ((Bc6hOne.fits_iff hns f).mp hf))).trans (Bc6hOne.ofGet_get f)

/-! ## The mode of a packed block -/

theorem field_code_lt (m : Bc6hMode) : m.field.2 < 2 ^ (m.field.1 + 1) := by cases m <;> decide

/-- A mode's code in the low bits of a packed block selects the mode (R200). -/
theorem bc6hModeOf_pack (m : Bc6hMode) (ps : List (Nat × Nat)) : bc6hModeOf (pack ((m.field.2, m.field.1 + 1) :: ps)) = m :=
  (bc6hModeOf_eq_iff _ m).mp (by rw [slice_zero, pack_mod, Nat.mod_eq_of_lt (field_code_lt m)])

theorem bc6hModeOf_packRows (m : Bc6hMode) (rows : List Bc6hRow) (get : Bc6hField → Nat) :
    bc6hModeOf (packRows m.field.2 (m.field.1 + 1) rows get) = m := bc6hModeOf_pack m _

theorem mod_of_bc6hModeOf {blk : Nat} (hm : bc6hModeOf blk = m) : blk % 2 ^ (m.field.1 + 1) = m.field.2 :=
  (bc6hModeOf_eq_iff blk m).mpr hm

/-- A two-subset block reads as well-formed fields, from which it is packed again. -/
theorem bc6hTwo_of_mode {blk : Nat} (hm : bc6hModeOf blk = m) (hblk : blk < 2 ^ 128) (hns : (Machine.bc6hDesc m).ns = 2) :
    (Bc6hTwo.ofBlock m.layout blk).fits (Machine.bc6hDesc m) = true ∧
      packRows m.field.2 (m.field.1 + 1) m.layout (Bc6hTwo.ofBlock m.layout blk).get = blk :=
  ⟨bc6hTwo_ofBlock_fits hns blk,
    packRows_eq_of_fields (layout_covers (by omega)) hblk (mod_of_bc6hModeOf hm) (Bc6hTwo.get_ofBlock _ blk)⟩

/-- The same for a one-subset block. -/
theorem bc6hOne_of_mode {blk : Nat} (hm : bc6hModeOf blk = m) (hblk : blk < 2 ^ 128) (hns : (Machine.bc6hDesc m).ns = 1) :
    (Bc6hOne.ofBlock m.layout blk).fits (Machine.bc6hDesc m) = true ∧
      packRows m.field.2 (m.field.1 + 1) m.layout (Bc6hOne.ofBlock m.layout blk).get = blk :=
  ⟨bc6hOne_ofBlock_fits hns blk,
    packRows_eq_of_fields (layout_covers (by omega)) hblk (mod_of_bc6hModeOf hm) (Bc6hOne.get_ofBlock hns blk)⟩

end Mode

/-! ## A reserved block: a code and the bits above it -/

theorem slice_pack_two {v n w k hi : Nat} (hhi : hi + 1 = n + k) (hw : w < 2 ^ k) : slice (pack [(v, n), (w, k)]) hi n = w := by
  rw [slice, pack_shift, hhi, Nat.add_sub_cancel_left, pack_mod, Nat.mod_eq_of_lt hw]

theorem pack_two_slice {blk v n k hi : Nat} (hhi : hi + 1 = n + k) (hblk : blk < 2 ^ (n + k)) (hv : blk % 2 ^ n = v) :
    pack [(v, n), (slice blk hi n, k)] = blk := by
  refine pack_cons_eq_shift (pos := 0) ?_ (pack_cons_eq_shift ?_ ?_)
  · rw [← hv, Nat.mod_mod, Nat.shiftRight_zero]
  · rw [slice, hhi, Nat.add_sub_cancel_left, Nat.mod_mod, Nat.zero_add]
  · rw [Nat.zero_add]
    exact (Nat.shiftRight_eq_zero blk _ hblk).symm

end Sys2Proof
end

section
/-! SUPPORT. Both directions of the code for BC7: the fields of a block fill it from its mode field up (45_bc7 R260 to R271). -/

namespace Sys2Proof

/-! ## What a cursor leaves -/

theorem Cursor.read_lt (c : Cursor) (n : Nat) : (c.read n).1 < 2 ^ n := Nat.mod_lt _ (Nat.two_pow_pos n)

/-- What is read, laid down before what is left, is what was there. -/
theorem Cursor.pack_read {c : Cursor} {n : Nat} {rest : List (Nat × Nat)} (h : pack rest = (c.read n).2.left) :
    pack (((c.read n).1, n) :: rest) = c.left := pack_cons_eq_shift (Nat.mod_mod _ _) h

theorem Cursor.pack_readMany {c : Cursor} {n len : Nat} {rest : List (Nat × Nat)} (h : pack rest = (c.readMany n len).2.left) :
    pack ((c.readMany n len).1.map (·, n) ++ rest) = c.left := by
  induction len generalizing c with
  | zero => exact h
  | succ len ih => exact Cursor.pack_read (ih h)

theorem Cursor.readMany_fits (c : Cursor) (n len : Nat) : fieldsFit len n (c.readMany n len).1 = true := by
  induction len generalizing c with
  | zero => rfl
  | succ len ih =>
    have h := ih (c.read n).2
    simp only [fieldsFit, fits, Bool.and_eq_true, decide_eq_true_eq, List.all_eq_true] at h ⊢
    exact ⟨congrArg Nat.succ h.1, List.forall_mem_cons.mpr ⟨c.read_lt n, h.2⟩⟩

theorem Cursor.readMany_snd (c : Cursor) (n len : Nat) : (c.readMany n len).2 = ⟨c.blk, c.pos + len * n⟩ := by
  induction len generalizing c with
  | zero => simp [Cursor.readMany]
  | succ len ih =>
    have hpos : c.pos + n + len * n = c.pos + (len + 1) * n := by ring
    exact (ih (c.read n).2).trans (congrArg (Cursor.mk c.blk) hpos)

/-! ## The fields of a block -/

/-- The fields one after another. -/
theorem Bc7Fields.pieces_eq (d : Machine.Bc7Desc) (f : Bc7Fields) : f.pieces d =
    (f.p, d.pb) :: (f.rot, d.rb) :: (f.isel, d.isb) :: (f.r.map (·, d.cb) ++ (f.g.map (·, d.cb) ++ (f.b.map (·, d.cb) ++
      (f.a.map (·, d.ab) ++ (f.pb.map (·, 1) ++ [(f.idx1, d.idx1Bits), (f.idx2, d.idx2Bits)]))))) := by
  simp [Bc7Fields.pieces]

/-- `Bc7Fields.fits` field by field. -/
theorem Bc7Fields.fits_iff (d : Machine.Bc7Desc) (f : Bc7Fields) : f.fits d = true ↔
    f.p < 2 ^ d.pb ∧ f.rot < 2 ^ d.rb ∧ f.isel < 2 ^ d.isb ∧ fieldsFit d.endpoints d.cb f.r = true ∧
    fieldsFit d.endpoints d.cb f.g = true ∧ fieldsFit d.endpoints d.cb f.b = true ∧
    fieldsFit d.alphaEndpoints d.ab f.a = true ∧ fieldsFit d.pbits 1 f.pb = true ∧
    f.idx1 < 2 ^ d.idx1Bits ∧ f.idx2 < 2 ^ d.idx2Bits := by
  simp [Bc7Fields.fits, Sys2Proof.fits, and_assoc]

theorem bc7_ofBlock_fits (m : Nat) (d : Machine.Bc7Desc) (blk : Nat) : (Bc7Fields.ofBlock m d blk).fits d = true :=
  (Bc7Fields.fits_iff d _).mpr ⟨Cursor.read_lt .., Cursor.read_lt .., Cursor.read_lt .., Cursor.readMany_fits ..,
    Cursor.readMany_fits .., Cursor.readMany_fits .., Cursor.readMany_fits .., Cursor.readMany_fits .., Cursor.read_lt ..,
    Cursor.read_lt ..⟩

/-- A cursor at fields of one width reads them all. -/
theorem Cursor.readMany_pack_of_fits {c : Cursor} {len n : Nat} {vs : List Nat} {rest : List (Nat × Nat)}
    (h : c.left = pack (vs.map (·, n) ++ rest)) (hvs : fieldsFit len n vs = true) :
    (c.readMany n len).1 = vs ∧ (c.readMany n len).2.left = pack rest := by
  simp only [fieldsFit, fits, Bool.and_eq_true, decide_eq_true_eq, List.all_eq_true] at hvs
  obtain ⟨rfl, hvs⟩ := hvs
  exact Cursor.readMany_pack h hvs

theorem Cursor.left_skip (blk n : Nat) : ((Cursor.mk blk 0).skip n).left = blk >>> n := by
  rw [Cursor.left, Cursor.skip, Nat.zero_add]

/-- The fields packed into a block are read back, one after another. -/
theorem bc7_ofBlock_toBlock {m : Nat} {d : Machine.Bc7Desc} {f : Bc7Fields} (hf : f.fits d = true) :
    Bc7Fields.ofBlock m d (f.toBlock m d) = f := by
  obtain ⟨hp, hrot, hisel, hr, hg, hb, ha, hpb, hidx1, hidx2⟩ := (Bc7Fields.fits_iff d f).mp hf
  have h : ((Cursor.mk (f.toBlock m d) 0).skip (m + 1)).left = pack (f.pieces d) :=
    (Cursor.left_skip ..).trans (pack_shift ..)
  rw [Bc7Fields.pieces_eq] at h
  obtain ⟨ep, h⟩ := Cursor.read_pack h hp
  obtain ⟨erot, h⟩ := Cursor.read_pack h hrot
  obtain ⟨eisel, h⟩ := Cursor.read_pack h hisel
  obtain ⟨er, h⟩ := Cursor.readMany_pack_of_fits h hr
  obtain ⟨eg, h⟩ := Cursor.readMany_pack_of_fits h hg
  obtain ⟨eb, h⟩ := Cursor.readMany_pack_of_fits h hb
  obtain ⟨ea, h⟩ := Cursor.readMany_pack_of_fits h ha
  obtain ⟨epb, h⟩ := Cursor.readMany_pack_of_fits h hpb
  obtain ⟨eidx1, h⟩ := Cursor.read_pack h hidx1
  obtain ⟨eidx2, -⟩ := Cursor.read_pack h hidx2
  simp only [Bc7Fields.ofBlock, ep, erot, eisel, er, eg, eb, ea, epb, eidx1, eidx2]

/-- The fields read from a block, packed, are the bits above its mode field. -/
theorem bc7_pack_pieces_ofBlock {m : Nat} {d : Machine.Bc7Desc} {blk : Nat} (hblk : blk < 2 ^ bc7Width m d) :
    pack ((Bc7Fields.ofBlock m d blk).pieces d) = blk >>> (m + 1) := by
  rw [Bc7Fields.pieces_eq, ← Cursor.left_skip]
  refine Cursor.pack_read (Cursor.pack_read (Cursor.pack_read (Cursor.pack_readMany (Cursor.pack_readMany (Cursor.pack_readMany
    (Cursor.pack_readMany (Cursor.pack_readMany (Cursor.pack_read (Cursor.pack_read ?_)))))))))
  simp only [Cursor.readMany_snd, Cursor.read, Cursor.skip, Cursor.left, pack]
  refine (Nat.shiftRight_eq_zero blk _ ?_).symm
  refine hblk.trans_eq (congrArg (2 ^ ·) ?_)
  simp only [bc7Width, Nat.mul_one]
  ring

/-- A mode's block is its mode field and the fields read from it. -/
theorem bc7_toBlock_ofBlock {m : Nat} {d : Machine.Bc7Desc} {blk : Nat} (hblk : blk < 2 ^ bc7Width m d)
    (hm : slice blk m 0 = 2 ^ m) : (Bc7Fields.ofBlock m d blk).toBlock m d = blk := by
  refine pack_cons_eq_shift (pos := 0) ?_ ?_
  · rw [← hm, slice_zero, Nat.mod_mod, Nat.shiftRight_zero]
  · rw [bc7_pack_pieces_ofBlock hblk, Nat.zero_add]

/-- The lowest set bit of a packed block is that of its mode (R260). -/
theorem bc7ModeOf_pack {k : Nat} {m : Bc7Mode} (hm : m.number = some k) (hk : k < 8) (ps : List (Nat × Nat)) :
    bc7ModeOf (pack ((2 ^ k, k + 1) :: ps)) = m :=
  (bc7ModeOf_eq_iff_of_number hm hk).mpr
    (by rw [slice_zero, pack_mod, Nat.mod_eq_of_lt (Nat.pow_lt_pow_succ Nat.one_lt_two)])

theorem bc7ModeOf_pack_reserved (ps : List (Nat × Nat)) : bc7ModeOf (pack ((0, 8) :: ps)) = .reserved :=
  bc7ModeOf_eq_iff.mpr (lowestSet_eq_none_iff.mpr (pack_mod 0 8 ps))

end Sys2Proof
end

section
/-! SUPPORT. Decoding and encoding are inverse to each other, over both levels (30_encoding R60 to R68). -/

namespace Sys2Proof

/-! ## Command words -/

theorem cmd_toNat_eq_add (c : Word16) :
    c.toNat = (cmdOp c).toNat + 2 ^ 4 * (cmdX c).toNat + 2 ^ 6 * (cmdY c).toNat + 2 ^ 8 * (cmdRsv c).toNat := by
  simp only [cmdOp, cmdX, cmdY, cmdRsv, BitVec.extractLsb'_toNat, Nat.shiftRight_eq_div_pow]
  omega

/-- A command word is made of its fields again. -/
theorem mkCmd_fields (c : Word16) : mkCmd (cmdOp c) (cmdX c) (cmdY c) (cmdRsv c) = c :=
  BitVec.eq_of_toNat_eq ((Machine.mkCmd_toNat_eq_add ..).trans (cmd_toNat_eq_add c).symm)

/-- Settles O18: the weighted sum of the fields is the word, and `mkCmd` is that sum. -/
theorem commandWordIsItsFields : Obligations.CommandWordIsItsFields :=
  ⟨cmd_toNat_eq_add, fun op x y rsv => ⟨Machine.cmdOp_mkCmd op x y rsv, Machine.cmdX_mkCmd op x y rsv,
    Machine.cmdY_mkCmd op x y rsv, Machine.cmdRsv_mkCmd op x y rsv⟩⟩

theorem mkCmd_of_op {c : Word16} {op : BitVec 4} (hop : (cmdOp c).toNat = op.toNat) (hrsv : cmdRsv c = 0) :
    mkCmd op (cmdX c) (cmdY c) 0 = c := by
  rw [← BitVec.eq_of_toNat_eq hop, ← hrsv, mkCmd_fields]

/-- The op of a word of the last row of the opcode table is 1 and its three low bits. -/
theorem op_of_reservedOp8toF {c : Word16} (hop : 8 ≤ (cmdOp c).toNat) : 1#1 ++ c.extractLsb' 0 3 = cmdOp c := by
  refine BitVec.eq_of_toNat_eq ?_
  rw [BitVec.toNat_append, ← Nat.shiftLeft_add_eq_or_of_lt (BitVec.isLt _)]
  simp only [cmdOp, BitVec.extractLsb'_toNat, Nat.shiftRight_zero] at hop ⊢
  simp only [BitVec.toNat_ofNat, Nat.shiftLeft_eq]
  omega

/-! ## Requests -/

theorem decodeCode_request (q : Request) : decodeCode (.request q) = (decodeRequest q).mapError .request := rfl

theorem decodeCode_request_ok {q : Request} {i : Instr} : decodeCode (.request q) = .ok i ↔ decodeRequest q = .ok i := by
  rw [decodeCode_request]
  cases decodeRequest q <;> simp [Except.mapError]

theorem decodeCode_format (f : Machine.Format) (x y : Coord) (off : Nat) :
    decodeCode (.request ⟨mkCmd f.op x y 0, off⟩) = .ok (f.instr x y off) :=
  decodeCode_request_ok.mpr (Machine.decodeRequest_mkCmd_format f x y off)

theorem decodeCode_reservedOp7 (x y : Coord) (rsv : BitVec 8) (off : Nat) :
    decodeCode (.request ⟨mkCmd 0x7 x y rsv, off⟩) = .ok (.reservedOp7 x y rsv off) := by
  simp [decodeCode_request_ok, decodeRequest]

theorem decodeCode_reservedOp8toF (low : BitVec 3) (x y : Coord) (rsv : BitVec 8) (off : Nat) :
    decodeCode (.request ⟨mkCmd (1#1 ++ low) x y rsv, off⟩) = .ok (.reservedOp8toF low x y rsv off) := by
  have hop : (1#1 ++ low).toNat = low.toNat + 8 := by
    rw [BitVec.toNat_append, ← Nat.shiftLeft_add_eq_or_of_lt low.isLt, Nat.add_comm]
    rfl
  have hlow : (mkCmd (1#1 ++ low) x y rsv).extractLsb' 0 3 = low :=
    BitVec.eq_of_toNat_eq ((Machine.toNat_extractLsb'_mkCmd ..).trans (by omega))
  simp only [decodeCode_request_ok, decodeRequest, Machine.cmdOp_mkCmd, Machine.cmdX_mkCmd, Machine.cmdY_mkCmd,
    Machine.cmdRsv_mkCmd, hop, hlow]

theorem except_ite_ok {P : Prop} {hP : Decidable P} {i j : Instr} {e : RequestError}
    (h : (if P then Except.ok j else Except.error e) = Except.ok i) : P ∧ j = i := by
  split at h
  · next hp => exact ⟨hp, Except.ok.inj h⟩
  · cases h

/-- A request that decodes is the code of its instruction, which keeps its offset. -/
theorem encode_of_decodeRequest {q : Request} {i : Instr} {addrW : Nat} (hoff : q.off < 2 ^ addrW)
    (hdec : decodeRequest q = .ok i) : i.wellFormed addrW = true ∧ encode i = .request q := by
  have hoff : fits addrW q.off = true := decide_eq_true hoff
  have hcode {c : Word16} (hc : c = q.cmd) : Code.request ⟨c, q.off⟩ = .request q := by rw [hc]
  simp only [decodeRequest] at hdec
  generalize hn : (cmdOp q.cmd).toNat = n at hdec
  match n with
  | 0 | 1 | 2 | 3 | 4 | 5 | 6 =>
    obtain ⟨hrsv, rfl⟩ := except_ite_ok hdec
    exact ⟨hoff, hcode (mkCmd_of_op hn hrsv)⟩
  | 7 =>
    obtain rfl := Except.ok.inj hdec
    exact ⟨hoff, hcode (by rw [← BitVec.eq_of_toNat_eq (x := cmdOp q.cmd) (y := 0x7) hn, mkCmd_fields])⟩
  | n + 8 =>
    obtain rfl := Except.ok.inj hdec
    exact ⟨hoff, hcode (by rw [op_of_reservedOp8toF (by omega), mkCmd_fields])⟩

/-! ## Blocks -/

theorem decodeCode_bc6h (sg : Signedness) (x y : Coord) (blk : Nat) :
    decodeCode (.block (bc6hCmd sg x y) blk) = .ok (decodeBc6h sg x y blk) := by
  cases sg <;> simp [decodeCode, bc6hCmd]

theorem decodeCode_bc7 (x y : Coord) (blk : Nat) : decodeCode (.block (mkCmd 0x6 x y 0) blk) = .ok (decodeBc7 x y blk) := by
  simp [decodeCode]

/-- What a BC6H block decodes to is well-formed and has the block as its code. -/
theorem encode_decodeBc6h (addrW : Nat) (sg : Signedness) (x y : Coord) {blk : Nat} (hblk : blk < 2 ^ 128) :
    (decodeBc6h sg x y blk).wellFormed addrW = true ∧ encode (decodeBc6h sg x y blk) = .block (bc6hCmd sg x y) blk := by
  unfold decodeBc6h
  cases hm : bc6hModeOf blk
  case m1 | m2 | m3 | m4 | m5 | m6 | m7 | m8 | m9 | m10 =>
    obtain ⟨hfits, hcode⟩ := bc6hTwo_of_mode hm hblk rfl
    exact ⟨hfits, congrArg (Code.block _) hcode⟩
  case m11 | m12 | m13 | m14 =>
    obtain ⟨hfits, hcode⟩ := bc6hOne_of_mode hm hblk rfl
    exact ⟨hfits, congrArg (Code.block _) hcode⟩
  case r13 | r17 | r1B | r1F =>
    exact ⟨decide_eq_true (slice_lt blk 127 5), congrArg (Code.block _) (pack_two_slice rfl hblk (mod_of_bc6hModeOf hm))⟩

/-- What a BC7 block decodes to is well-formed and has the block as its code. -/
theorem encode_decodeBc7 (addrW : Nat) (x y : Coord) {blk : Nat} (hblk : blk < 2 ^ 128) :
    (decodeBc7 x y blk).wellFormed addrW = true ∧ encode (decodeBc7 x y blk) = .block (mkCmd 0x6 x y 0) blk := by
  unfold decodeBc7
  cases hm : bc7ModeOf blk
  case m0 | m1 | m2 | m3 | m4 | m5 | m6 | m7 =>
    exact ⟨bc7_ofBlock_fits .., congrArg (Code.block _)
      (bc7_toBlock_ofBlock hblk ((bc7ModeOf_eq_iff_of_number rfl (by decide)).mp hm))⟩
  case reserved =>
    exact ⟨decide_eq_true (slice_lt blk 127 8), congrArg (Code.block _)
      (pack_two_slice rfl hblk (lowestSet_eq_none_iff.mp (bc7ModeOf_eq_iff.mp hm)))⟩

/-- A block that decodes stands beside the command word of a BC6H or a BC7 request (30_encoding R65). -/
theorem decodeCode_block_ok {cmd : Word16} {blk : Nat} {i : Instr} (hdec : decodeCode (.block cmd blk) = .ok i) :
    (∃ sg, (cmdRsv cmd = 0 → bc6hCmd sg (cmdX cmd) (cmdY cmd) = cmd) ∧ i = decodeBc6h sg (cmdX cmd) (cmdY cmd) blk) ∨
    ((cmdRsv cmd = 0 → mkCmd 0x6 (cmdX cmd) (cmdY cmd) 0 = cmd) ∧ i = decodeBc7 (cmdX cmd) (cmdY cmd) blk) := by
  simp only [decodeCode] at hdec
  split at hdec
  case h_1 hop => exact .inl ⟨.uf16, mkCmd_of_op hop, (Except.ok.inj hdec).symm⟩
  case h_2 hop => exact .inl ⟨.sf16, mkCmd_of_op hop, (Except.ok.inj hdec).symm⟩
  case h_3 hop => exact .inr ⟨mkCmd_of_op hop, (Except.ok.inj hdec).symm⟩
  case h_4 => cases hdec

/-- Settles O23: a request is made of its fields again; the layout of a block's mode takes every bit of the block once. -/
theorem encodeOfDecode : Obligations.EncodeOfDecode := by
  intro addrW c i hfits hdec
  cases c with
  | request q =>
    obtain ⟨hwf, henc⟩ := encode_of_decodeRequest (of_decide_eq_true hfits) (decodeCode_request_ok.mp hdec)
    exact ⟨hwf, fun _ => henc⟩
  | block cmd blk =>
    obtain ⟨sg, hcmd, rfl⟩ | ⟨hcmd, rfl⟩ := decodeCode_block_ok hdec
    · obtain ⟨hwf, henc⟩ := encode_decodeBc6h addrW sg (cmdX cmd) (cmdY cmd) (of_decide_eq_true hfits)
      exact ⟨hwf, fun hrsv => by rw [henc, hcmd (hrsv cmd blk rfl)]⟩
    · obtain ⟨hwf, henc⟩ := encode_decodeBc7 addrW (cmdX cmd) (cmdY cmd) (of_decide_eq_true hfits)
      exact ⟨hwf, fun hrsv => by rw [henc, hcmd (hrsv cmd blk rfl)]⟩

/-! ## Decoding what is encoded -/

/-- The instruction of a block that is read as one of the mode: the rows of the mode table (44_bc6h R200). -/
def Bc6hMode.instr (sg : Signedness) (x y : Coord) (blk : Nat) : Bc6hMode → Instr
  | .m1 => .bc6hMode1 sg x y (Bc6hTwo.ofBlock bc6hLayout1 blk)
  | .m2 => .bc6hMode2 sg x y (Bc6hTwo.ofBlock bc6hLayout2 blk)
  | .m3 => .bc6hMode3 sg x y (Bc6hTwo.ofBlock bc6hLayout3 blk)
  | .m4 => .bc6hMode4 sg x y (Bc6hTwo.ofBlock bc6hLayout4 blk)
  | .m5 => .bc6hMode5 sg x y (Bc6hTwo.ofBlock bc6hLayout5 blk)
  | .m6 => .bc6hMode6 sg x y (Bc6hTwo.ofBlock bc6hLayout6 blk)
  | .m7 => .bc6hMode7 sg x y (Bc6hTwo.ofBlock bc6hLayout7 blk)
  | .m8 => .bc6hMode8 sg x y (Bc6hTwo.ofBlock bc6hLayout8 blk)
  | .m9 => .bc6hMode9 sg x y (Bc6hTwo.ofBlock bc6hLayout9 blk)
  | .m10 => .bc6hMode10 sg x y (Bc6hTwo.ofBlock bc6hLayout10 blk)
  | .m11 => .bc6hMode11 sg x y (Bc6hOne.ofBlock bc6hLayout11 blk)
  | .m12 => .bc6hMode12 sg x y (Bc6hOne.ofBlock bc6hLayout12 blk)
  | .m13 => .bc6hMode13 sg x y (Bc6hOne.ofBlock bc6hLayout13 blk)
  | .m14 => .bc6hMode14 sg x y (Bc6hOne.ofBlock bc6hLayout14 blk)
  | .r13 => .bc6hReserved13 sg x y (slice blk 127 5)
  | .r17 => .bc6hReserved17 sg x y (slice blk 127 5)
  | .r1B => .bc6hReserved1B sg x y (slice blk 127 5)
  | .r1F => .bc6hReserved1F sg x y (slice blk 127 5)

theorem decodeBc6h_eq_instr (sg : Signedness) (x y : Coord) (blk : Nat) :
    decodeBc6h sg x y blk = (bc6hModeOf blk).instr sg x y blk := rfl

/-- The same for BC7 (45_bc7 R260). -/
def Bc7Mode.instr (x y : Coord) (blk : Nat) : Bc7Mode → Instr
  | .m0 => .bc7Mode0 x y (Bc7Fields.ofBlock 0 (Machine.bc7Desc .m0) blk)
  | .m1 => .bc7Mode1 x y (Bc7Fields.ofBlock 1 (Machine.bc7Desc .m1) blk)
  | .m2 => .bc7Mode2 x y (Bc7Fields.ofBlock 2 (Machine.bc7Desc .m2) blk)
  | .m3 => .bc7Mode3 x y (Bc7Fields.ofBlock 3 (Machine.bc7Desc .m3) blk)
  | .m4 => .bc7Mode4 x y (Bc7Fields.ofBlock 4 (Machine.bc7Desc .m4) blk)
  | .m5 => .bc7Mode5 x y (Bc7Fields.ofBlock 5 (Machine.bc7Desc .m5) blk)
  | .m6 => .bc7Mode6 x y (Bc7Fields.ofBlock 6 (Machine.bc7Desc .m6) blk)
  | .m7 => .bc7Mode7 x y (Bc7Fields.ofBlock 7 (Machine.bc7Desc .m7) blk)
  | .reserved => .bc7ReservedMode x y (slice blk 127 8)

theorem decodeBc7_eq_instr (x y : Coord) (blk : Nat) : decodeBc7 x y blk = (bc7ModeOf blk).instr x y blk := rfl

section Instructions

variable (sg : Signedness) (x y : Coord)

/-- A packed block of a two-subset mode is read back, where `c` is the instruction of the mode. -/
theorem decodeCode_bc6hTwo {m : Bc6hMode} (hns : (Machine.bc6hDesc m).ns = 2) {f : Bc6hTwo}
    (hf : f.fits (Machine.bc6hDesc m) = true) {c : Bc6hTwo → Instr}
    (hc : ∀ blk, m.instr sg x y blk = c (Bc6hTwo.ofBlock m.layout blk)) :
    decodeCode (.block (bc6hCmd sg x y) (packRows m.field.2 (m.field.1 + 1) m.layout f.get)) = .ok (c f) := by
  rw [decodeCode_bc6h, decodeBc6h_eq_instr, bc6hModeOf_packRows, hc, bc6hTwo_ofBlock_packRows hns hf]

/-- The same for a one-subset mode. -/
theorem decodeCode_bc6hOne {m : Bc6hMode} (hns : (Machine.bc6hDesc m).ns = 1) {f : Bc6hOne}
    (hf : f.fits (Machine.bc6hDesc m) = true) {c : Bc6hOne → Instr}
    (hc : ∀ blk, m.instr sg x y blk = c (Bc6hOne.ofBlock m.layout blk)) :
    decodeCode (.block (bc6hCmd sg x y) (packRows m.field.2 (m.field.1 + 1) m.layout f.get)) = .ok (c f) := by
  rw [decodeCode_bc6h, decodeBc6h_eq_instr, bc6hModeOf_packRows, hc, bc6hOne_ofBlock_packRows hns hf]

/-- The same for a reserved code, which has five bits. -/
theorem decodeCode_bc6hReserved {m : Bc6hMode} (hlen : m.field.1 = 4) {bits : Nat} (hbits : fits 123 bits = true)
    {c : Nat → Instr} (hc : ∀ blk, m.instr sg x y blk = c (slice blk 127 5)) :
    decodeCode (.block (bc6hCmd sg x y) (pack [(m.field.2, 5), (bits, 123)])) = .ok (c bits) := by
  have hmode := bc6hModeOf_pack m [(bits, 123)]
  rw [hlen] at hmode
  rw [decodeCode_bc6h, decodeBc6h_eq_instr, hmode, hc, slice_pack_two (k := 123) rfl (of_decide_eq_true hbits)]

theorem decodeCode_bc7Mode {m : Bc7Mode} {k : Nat} (hm : m.number = some k) (hk : k < 8) {f : Bc7Fields}
    (hf : f.fits (Machine.bc7Desc m) = true) {c : Bc7Fields → Instr}
    (hc : ∀ blk, m.instr x y blk = c (Bc7Fields.ofBlock k (Machine.bc7Desc m) blk)) :
    decodeCode (.block (mkCmd 0x6 x y 0) (f.toBlock k (Machine.bc7Desc m))) = .ok (c f) := by
  have hmode : bc7ModeOf (f.toBlock k (Machine.bc7Desc m)) = m := bc7ModeOf_pack hm hk _
  rw [decodeCode_bc7, decodeBc7_eq_instr, hmode, hc, bc7_ofBlock_toBlock hf]

theorem decodeCode_bc7Reserved {bits : Nat} (hbits : fits 120 bits = true) :
    decodeCode (.block (mkCmd 0x6 x y 0) (pack [(0, 8), (bits, 120)])) = .ok (.bc7ReservedMode x y bits) := by
  rw [decodeCode_bc7, decodeBc7_eq_instr, bc7ModeOf_pack_reserved, Bc7Mode.instr,
    slice_pack_two (k := 120) rfl (of_decide_eq_true hbits)]

end Instructions

/-- Settles O22: the fields of a request are read from its command word; a packed block has the mode it was packed for and the
fields laid down in it. -/
theorem decodeOfEncode : Obligations.DecodeOfEncode := by
  intro addrW i hwf
  cases i with
  | decBc1 x y off => exact decodeCode_format .bc1 x y off
  | decBc3 x y off => exact decodeCode_format .bc3 x y off
  | decBc4 x y off => exact decodeCode_format .bc4 x y off
  | decBc5 x y off => exact decodeCode_format .bc5 x y off
  | decBc6hUf16 x y off => exact decodeCode_format .bc6hUf16 x y off
  | decBc6hSf16 x y off => exact decodeCode_format .bc6hSf16 x y off
  | decBc7 x y off => exact decodeCode_format .bc7 x y off
  | reservedOp7 x y rsv off => exact decodeCode_reservedOp7 x y rsv off
  | reservedOp8toF low x y rsv off => exact decodeCode_reservedOp8toF low x y rsv off
  | bc6hMode1 sg x y f => exact decodeCode_bc6hTwo (m := .m1) sg x y rfl hwf fun _ => rfl
  | bc6hMode2 sg x y f => exact decodeCode_bc6hTwo (m := .m2) sg x y rfl hwf fun _ => rfl
  | bc6hMode3 sg x y f => exact decodeCode_bc6hTwo (m := .m3) sg x y rfl hwf fun _ => rfl
  | bc6hMode4 sg x y f => exact decodeCode_bc6hTwo (m := .m4) sg x y rfl hwf fun _ => rfl
  | bc6hMode5 sg x y f => exact decodeCode_bc6hTwo (m := .m5) sg x y rfl hwf fun _ => rfl
  | bc6hMode6 sg x y f => exact decodeCode_bc6hTwo (m := .m6) sg x y rfl hwf fun _ => rfl
  | bc6hMode7 sg x y f => exact decodeCode_bc6hTwo (m := .m7) sg x y rfl hwf fun _ => rfl
  | bc6hMode8 sg x y f => exact decodeCode_bc6hTwo (m := .m8) sg x y rfl hwf fun _ => rfl
  | bc6hMode9 sg x y f => exact decodeCode_bc6hTwo (m := .m9) sg x y rfl hwf fun _ => rfl
  | bc6hMode10 sg x y f => exact decodeCode_bc6hTwo (m := .m10) sg x y rfl hwf fun _ => rfl
  | bc6hMode11 sg x y f => exact decodeCode_bc6hOne (m := .m11) sg x y rfl hwf fun _ => rfl
  | bc6hMode12 sg x y f => exact decodeCode_bc6hOne (m := .m12) sg x y rfl hwf fun _ => rfl
  | bc6hMode13 sg x y f => exact decodeCode_bc6hOne (m := .m13) sg x y rfl hwf fun _ => rfl
  | bc6hMode14 sg x y f => exact decodeCode_bc6hOne (m := .m14) sg x y rfl hwf fun _ => rfl
  | bc6hReserved13 sg x y bits => exact decodeCode_bc6hReserved (m := .r13) sg x y rfl hwf fun _ => rfl
  | bc6hReserved17 sg x y bits => exact decodeCode_bc6hReserved (m := .r17) sg x y rfl hwf fun _ => rfl
  | bc6hReserved1B sg x y bits => exact decodeCode_bc6hReserved (m := .r1B) sg x y rfl hwf fun _ => rfl
  | bc6hReserved1F sg x y bits => exact decodeCode_bc6hReserved (m := .r1F) sg x y rfl hwf fun _ => rfl
  | bc7Mode0 x y f => exact decodeCode_bc7Mode (m := .m0) x y rfl (by decide) hwf fun _ => rfl
  | bc7Mode1 x y f => exact decodeCode_bc7Mode (m := .m1) x y rfl (by decide) hwf fun _ => rfl
  | bc7Mode2 x y f => exact decodeCode_bc7Mode (m := .m2) x y rfl (by decide) hwf fun _ => rfl
  | bc7Mode3 x y f => exact decodeCode_bc7Mode (m := .m3) x y rfl (by decide) hwf fun _ => rfl
  | bc7Mode4 x y f => exact decodeCode_bc7Mode (m := .m4) x y rfl (by decide) hwf fun _ => rfl
  | bc7Mode5 x y f => exact decodeCode_bc7Mode (m := .m5) x y rfl (by decide) hwf fun _ => rfl
  | bc7Mode6 x y f => exact decodeCode_bc7Mode (m := .m6) x y rfl (by decide) hwf fun _ => rfl
  | bc7Mode7 x y f => exact decodeCode_bc7Mode (m := .m7) x y rfl (by decide) hwf fun _ => rfl
  | bc7ReservedMode x y bits => exact decodeCode_bc7Reserved x y hwf

end Sys2Proof
end

section
/-! SUPPORT. The host's moves (70_reset_and_hazards R333, R340; 20_memory R40), and the requests in flight: in what order they are
served does not matter, and every one of them ends (70_reset_and_hazards R338, R339). -/

namespace Sys2Proof.Machine

/-! ## The host's turn -/

section HostTurn

variable {s : State} {rest : List Agent} {m : HostMove} {ms : List HostMove}

theorem step_makesMove (hturn : s.turn = .host rest) (hhost : s.host = m :: ms) (hmay : s.mayMove m = true) :
    step s = .next { s.makeMove m with host := ms, schedule := rest } := by
  rw [step_host hturn, hostTurn_of_mayMove hhost hmay]

theorem step_hostWaits (hturn : s.turn = .host rest) (hhost : s.host = m :: ms) (hmay : s.mayMove m = false) :
    step s = .next { s with schedule := rest } := by
  rw [step_host hturn, State.hostTurn, hhost]
  simp [hmay]

end HostTurn

/-- The buffer holds the host's bytes and no other address exists (20_memory R40). -/
theorem readByte_handedOver {t : State} {bytes : List Byte} (hlaunch : t.launch = some bytes.length)
    (hmem : t.mem = Memory.ofBytes 0 bytes) (a : Nat) : t.readByte a = bytes[a]? := by
  rcases Nat.lt_or_ge a bytes.length with ha | ha
  · have hread := read_ofBytes 0 a bytes
    rw [Nat.zero_add] at hread
    rw [readByte_of_lt hlaunch ha, hmem, hread, List.getD_eq_getElem _ _ ha, List.getElem?_eq_getElem ha]
  · rw [List.getElem?_eq_none ha, State.readByte, hlaunch]
    exact if_neg ha.not_gt

theorem readByte_of_closed {t : State} (h : t.launch = none) (a : Nat) : t.readByte a = none := by
  simp only [State.readByte, h]

/-- Settles O7: the host may launch a buffer that fits while no launch is open, and its bytes are then read back. -/
theorem launchHandsOverTheBytes : Obligations.LaunchHandsOverTheBytes := by
  intro s rest ms bytes hturn hhost
  refine ⟨fun hclosed hlen => ?_, fun hlen => step_hostWaits hturn hhost ?_, fun len hopen => step_hostWaits hturn hhost ?_⟩
  · have hmay : s.mayMove (.launch bytes) = true := by simp [State.mayMove, hclosed, hlen]
    refine ⟨_, step_makesMove hturn hhost hmay, rfl, readByte_handedOver rfl rfl, fun a ha => ?_, rfl, rfl, rfl, rfl, rfl⟩
    obtain ⟨len, hopen, hlt⟩ := (readByte_isSome _ a).mp ha
    obtain rfl : bytes.length = len := Option.some.inj hopen
    exact hlt.trans_le hlen
  · simp [State.mayMove, hlen]
  · simp [State.mayMove, hopen]

theorem latchOf_issue_same {s : State} {u : Nat} (q : Request) (hu : u < s.units.length) :
    (s.makeMove (.issue u q)).latchOf u = some q := by
  simp [State.latchOf, hu]

theorem latchOf_issue_of_ne (s : State) {u v : Nat} (q : Request) (hv : v ≠ u) :
    (s.makeMove (.issue u q)).latchOf v = s.latchOf v := by
  simp only [State.latchOf, issue_units, List.getD_eq_getElem?_getD, List.getElem?_set_ne hv.symm]

/-- Settles O8: each clause is a case of `mayMove`, and the move made or the wait. -/
theorem hostIssuesAndEndsLaunches : Obligations.HostIssuesAndEndsLaunches := by
  intro s rest ms hturn
  refine ⟨fun u q hhost => ⟨fun len hopen hu hidle hoff => ?_, fun q' hbusy => ?_, fun hclosed => ?_, fun hu => ?_, fun hoff => ?_⟩,
    fun hhost => ⟨fun len hopen hidle => ?_, fun hbusy => ?_, fun hclosed => ?_⟩⟩
  · have hmay : s.mayMove (.issue u q) = true := by simp [State.mayMove, hopen, hu, hidle, hoff]
    exact ⟨_, step_makesMove hturn hhost hmay, latchOf_issue_same q hu, fun v => latchOf_issue_of_ne s q, List.length_set, rfl, rfl,
      rfl, fun a => rfl, rfl, rfl⟩
  · exact step_hostWaits hturn hhost (by simp [State.mayMove, hbusy])
  · exact step_hostWaits hturn hhost (by simp [State.mayMove, hclosed])
  · exact step_hostWaits hturn hhost (by simp [State.mayMove, hu.not_gt])
  · exact step_hostWaits hturn hhost (by simp [State.mayMove, hoff.not_gt])
  · have hmay : s.mayMove .endLaunch = true := by simp [State.mayMove, hopen, hidle]
    exact ⟨_, step_makesMove hturn hhost hmay, rfl, readByte_of_closed rfl, rfl, rfl, rfl, rfl, rfl⟩
  · exact step_hostWaits hturn hhost (by simp [State.mayMove, hbusy])
  · exact step_hostWaits hturn hhost (by simp [State.mayMove, hclosed])

/-! ## The requests in flight -/

/-- The state of a lone unit with the request, in the launch of `s`. -/
def State.alone (s : State) (q : Request) : State := { s with units := [⟨some q⟩], schedule := [] }

theorem alone_turn (s : State) (q : Request) : (s.alone q).turn = .serve 0 q [] := rfl

theorem finish_outcome_inj {s : State} {u : Nat} {q : Request} {rest : List Agent} {o o' : ReqOutcome}
    (h : s.finish u q rest o = s.finish u q rest o') : o = o' := by
  simpa using congrArg State.outcomes h

/-- `answer` says in what each request ends while the parameters and the launch are those of `s`. -/
def State.Answers (s : State) (answer : Request → ReqOutcome) : Prop :=
  ∀ t : State, t.cfg = s.cfg → t.launch = s.launch → t.mem = s.mem →
    ∀ u q rest, t.turn = .serve u q rest → step t = .next (t.finish u q rest (answer q))

/-- There is such a function: what a lone unit answers (10_state R27). -/
theorem exists_answers (s : State) : ∃ answer, s.Answers answer := by
  choose answer hanswer using fun q => step_serve_finishes (alone_turn s q)
  refine ⟨answer, fun t hcfg hlaunch hmem u q rest hturn => ?_⟩
  obtain ⟨o, ho, halone⟩ := outcomeDependsOnRequestAndBlockAlone t (s.alone q) u 0 q rest [] hturn (alone_turn s q) hcfg
    fun _ a _ _ _ => readByte_congr hlaunch hmem a
  rw [ho, finish_outcome_inj (Host.Outcome.next.inj (halone.symm.trans (hanswer q)))]

/-- A request with its answer, as the host gets it. -/
def tagged (answer : Request → ReqOutcome) (q : Request) : Delivered := ⟨q, answer q⟩

/-- From `s` to `t` requests in flight have ended, each in its answer, and nothing else happened. -/
structure Serves (answer : Request → ReqOutcome) (s t : State) : Prop where
  cfg : t.cfg = s.cfg
  launch : t.launch = s.launch
  launchStart : t.launchStart = s.launchStart
  mem : t.mem = s.mem
  host : t.host = s.host
  ended : ∃ new, t.outcomes = s.outcomes ++ new ∧
    (new ++ (inFlight t.units).map (tagged answer)).Perm ((inFlight s.units).map (tagged answer))

section Serves

variable {answer : Request → ReqOutcome} {s t t' : State}

theorem serves_schedule (answer : Request → ReqOutcome) (s : State) (rest : List Agent) :
    Serves answer s { s with schedule := rest } := ⟨rfl, rfl, rfl, rfl, rfl, [], by simp⟩

theorem Serves.trans (h : Serves answer s t) (h' : Serves answer t t') : Serves answer s t' := by
  obtain ⟨new, hnew, hperm⟩ := h.ended
  obtain ⟨new', hnew', hperm'⟩ := h'.ended
  refine ⟨h'.cfg.trans h.cfg, h'.launch.trans h.launch, h'.launchStart.trans h.launchStart, h'.mem.trans h.mem,
    h'.host.trans h.host, new ++ new', by rw [hnew', hnew, List.append_assoc], ?_⟩
  rw [List.append_assoc]
  exact (hperm'.append_left new).trans hperm

theorem Serves.answers (h : Serves answer s t) (hs : s.Answers answer) : t.Answers answer :=
  fun r hcfg hlaunch hmem => hs r (hcfg.trans h.cfg) (hlaunch.trans h.launch) (hmem.trans h.mem)

theorem serves_finish {u : Nat} {q : Request} {rest : List Agent} (hturn : s.turn = .serve u q rest) :
    Serves answer s (s.finish u q rest (answer q)) where
  cfg := rfl
  launch := rfl
  launchStart := rfl
  mem := rfl
  host := rfl
  ended := ⟨[tagged answer q], rfl, ((inFlight_finish hturn).map (tagged answer)).symm⟩

/-! ## Any order -/

/-- An idle unit's latch may be emptied, and so may that of a unit that does not exist. -/
theorem units_set_of_idle {u : Nat} (hidle : s.latchOf u = none) : s.units.set u ⟨none⟩ = s.units := by
  rcases Nat.lt_or_ge u s.units.length with hu | hu
  · rw [← hidle, units_set_latchOf s hu]
  · exact List.set_eq_of_length_le hu

theorem step_unit (hs : s.Answers answer) {u : Nat} {rest : List Agent} (hsched : s.schedule = .unit u :: rest) :
    ∃ t, step s = .next t ∧ Serves answer s t ∧ t.units = s.units.set u ⟨none⟩ ∧ t.schedule = rest := by
  cases hlatch : s.latchOf u with
  | some q =>
    have hturn := turn_unit hsched hlatch
    exact ⟨_, hs s rfl rfl rfl u q rest hturn, serves_finish hturn, rfl, rfl⟩
  | none =>
    have hwait : step s = .next { s with schedule := rest } := by simp only [step, State.turn, hsched, hlatch]
    exact ⟨_, hwait, serves_schedule answer s rest, (units_set_of_idle hlatch).symm, rfl⟩

/-- The units after each unit of the list has had a turn. -/
def idled (l : List Nat) (ds : List DecoderUnit) : List DecoderUnit := l.foldl (fun ds u => ds.set u ⟨none⟩) ds

theorem idled_perm {l l' : List Nat} (h : l.Perm l') (ds : List DecoderUnit) : idled l ds = idled l' ds := by
  refine h.foldl_eq' (fun u _ v _ ds => ?_) ds
  by_cases huv : u = v
  · rw [huv]
  · rw [List.set_comm _ _ huv]

theorem run_units {l : List Nat} {rest : List Agent} (hs : s.Answers answer) (hsched : s.schedule = l.map .unit ++ rest) :
    ∃ t : State, core.run l.length s = .next t ∧ Serves answer s t ∧ t.units = idled l s.units ∧ t.schedule = rest := by
  induction l generalizing s with
  | nil => exact ⟨s, rfl, serves_schedule answer s s.schedule, rfl, hsched⟩
  | cons u l ih =>
    obtain ⟨s', hstep, hserves, hunits, hsched'⟩ := step_unit hs hsched
    obtain ⟨t, hrun, hserves', hunits', hrest⟩ := ih (hserves.answers hs) hsched'
    exact ⟨t, (core_run_succ hstep _).trans hrun, hserves.trans hserves', by rw [hunits', hunits]; rfl, hrest⟩

/-- Two runs that leave the same requests in flight have delivered the same outcomes. -/
theorem Serves.outcomes_perm (h : Serves answer s t) (h' : Serves answer s t') (hunits : t'.units = t.units) :
    t.outcomes.Perm t'.outcomes := by
  obtain ⟨new, hnew, hperm⟩ := h.ended
  obtain ⟨new', hnew', hperm'⟩ := h'.ended
  rw [hunits] at hperm'
  rw [hnew, hnew']
  exact ((List.perm_append_right_iff _).mp (hperm.trans hperm'.symm)).append_left _

end Serves

/-- Settles O16: a unit's turn empties its latch, in whatever order, and a request ends in its answer, so what has been delivered
and what is left in flight are together the same. -/
theorem orderOfServiceDoesNotMatter : Obligations.OrderOfServiceDoesNotMatter := by
  intro s l l' rest hperm
  obtain ⟨answer, hs⟩ := exists_answers s
  obtain ⟨t, hrun, h, hunits, hsched⟩ := run_units (s := { s with schedule := l.map .unit ++ rest }) hs rfl
  obtain ⟨t', hrun', h', hunits', hsched'⟩ := run_units (s := { s with schedule := l'.map .unit ++ rest }) hs rfl
  have hsame : t'.units = t.units := by rw [hunits, hunits', idled_perm hperm]
  exact ⟨t, t', hrun, hrun', hsame, h'.cfg.trans h.cfg.symm, h'.launch.trans h.launch.symm,
    h'.launchStart.trans h.launchStart.symm, h'.mem.trans h.mem.symm, h'.host.trans h.host.symm, hsched'.trans hsched.symm,
    h.outcomes_perm { h' with } hsame⟩

/-! ## Every request ends -/

theorem busyCount_eq_length_inFlight (ds : List DecoderUnit) : busyCount ds = (inFlight ds).length := by
  induction ds with
  | nil => rfl
  | cons d rest ih => cases hd : d.latch <;> simp [busyCount, inFlight, hd, ih, Nat.add_comm]

/-- With a host that makes no move, every step serves, and while work is left it takes some of it (70 R339). -/
theorem serves_step {answer : Request → ReqOutcome} {s : State} (hs : s.Answers answer) (hhost : s.host = []) :
    ∃ t, step s = .next t ∧ Serves answer s t ∧ t.workLeft ≤ s.workLeft - 1 := by
  obtain ⟨u, q, rest, hturn, -⟩ | ⟨rest, hturn, hstep⟩ | ⟨rest, hturn, hstep⟩ := step_cases s
  · have hlt := pending_finish_lt (answer q) hturn
    have hrest := congrArg List.length (turn_serve_rest hturn)
    refine ⟨_, hs s rfl rfl rfl u q rest hturn, serves_finish hturn, ?_⟩
    simp only [State.workLeft, finish_schedule, hrest, List.length_tail]
    omega
  · have hstay : s.hostTurn rest = { s with schedule := rest } := by simp only [State.hostTurn, hhost]
    rw [hstay] at hstep
    refine ⟨_, hstep, serves_schedule answer s rest, ?_⟩
    obtain hsched | ⟨-, rfl, hidle⟩ := turn_host hturn
    · exact workLeft_waits hsched
    · simp [State.workLeft, State.pending, hidle, hhost]
  · obtain ⟨u, hsched⟩ := turn_wait hturn
    exact ⟨_, hstep, serves_schedule answer s rest, workLeft_waits hsched⟩

/-- As many steps as there is work left leave none. -/
theorem serves_run {answer : Request → ReqOutcome} {s : State} {n : Nat} (hs : s.Answers answer) (hhost : s.host = [])
    (hn : s.workLeft ≤ n) : ∃ t : State, core.run n s = .next t ∧ Serves answer s t ∧ t.workLeft = 0 := by
  induction n generalizing s with
  | zero => exact ⟨s, rfl, serves_schedule answer s s.schedule, Nat.le_zero.mp hn⟩
  | succ n ih =>
    obtain ⟨s', hstep, hserves, hle⟩ := serves_step hs hhost
    obtain ⟨t, hrun, hserves', hend⟩ := ih (hserves.answers hs) (hserves.host.trans hhost) (by omega)
    exact ⟨t, (core_run_succ hstep n).trans hrun, hserves.trans hserves', hend⟩

/-- Settles O17: the work of a host without moves is its schedule and the requests in flight; when none is left every unit is idle,
and what has been delivered is the answers of all that were in flight. -/
theorem everyRequestInFlightEnds : Obligations.EveryRequestInFlightEnds := by
  intro s hhost
  obtain ⟨answer, hs⟩ := exists_answers s
  have hwork : s.workLeft = s.schedule.length + busyCount s.units := by
    simp [State.workLeft, State.pending, hhost, busyCount_eq_length_inFlight]
  obtain ⟨t, hrun, hserves, hzero⟩ := serves_run hs hhost hwork.le
  obtain ⟨new, hnew, hperm⟩ := hserves.ended
  have hidle : inFlight t.units = [] := List.eq_nil_of_length_eq_zero (by unfold State.workLeft State.pending at hzero; omega)
  refine ⟨t, new, hrun, (allIdle_iff_inFlight t).mpr hidle, hnew, ?_⟩
  simpa [hidle, Function.comp_def, tagged] using hperm.map Delivered.req

end Sys2Proof.Machine
end

section
/-! SUPPORT. A request runs the instruction of its block (log 1), and so does the step at a word of the opcode table (logs 2 and 3):
what `State.loadCode` lays down is fetched again. -/

namespace Sys2Proof.Machine

/-! ## The instruction of a block -/

theorem exec_decodeBc6h (sg : Signedness) (x y : Coord) (blk : Nat) : exec (decodeBc6h sg x y blk) = runBc6h sg x y blk := by
  unfold decodeBc6h runBc6h
  cases bc6hModeOf blk <;> rfl

theorem exec_decodeBc7 (x y : Coord) (blk : Nat) : exec (decodeBc7 x y blk) = runBc7 x y blk := by
  unfold decodeBc7 runBc7
  cases bc7ModeOf blk <;> rfl

/-- Settles O25: with its block in the buffer, the request runs what the block decodes to, which responds. -/
theorem requestsRunTheirBlockInstruction : Obligations.RequestsRunTheirBlockInstruction := by
  intro s u q rest x y off blk hturn hblk both
  have hboth {i j : Instr} {k : Nat → State → Host.Outcome State Fault Refusal} (hi : exec i s = withBlock off 16 k s)
      (hj : exec j = k blk) (hk : RespondsByConfig (k blk)) : both i j := by
    obtain ⟨c, hc⟩ := hk
    have hresp : k blk s = .next (s.finish u q rest (.response (c s.cfg))) := (hc s).trans (respond_serve _ hturn)
    exact ⟨c s.cfg, by rw [hi, withBlock_some hblk, hresp], by rw [hj, hresp]⟩
  exact ⟨hboth (exec_decBc6hUf16 x y off s) (exec_decodeBc6h ..) (runBc6h_respondsByConfig ..),
    hboth (exec_decBc6hSf16 x y off s) (exec_decodeBc6h ..) (runBc6h_respondsByConfig ..),
    hboth (exec_decBc7 x y off s) (exec_decodeBc7 ..) (runBc7_respondsByConfig ..)⟩

/-! ## A block laid down in the buffer -/

/-- Bytes written from `addr` up leave what is below. -/
theorem read_writeBytes_below {a addr : Nat} (h : a < addr) (bytes : List Byte) (m : List Host.Cell) :
    Memory.read (Memory.writeBytes addr bytes m) a = Memory.read m a := by
  induction bytes generalizing addr m with
  | nil => rfl
  | cons b rest ih => rw [Memory.writeBytes, ih (Nat.lt_succ_of_lt h), read_write_other b m h.ne]

/-- The bytes of an integer, written and added up again (20_memory R42, R46). -/
theorem littleEndianSum_writeBytes (addr v n : Nat) {m : List Host.Cell} (hm : Memory.wfFrom 0 m = true) :
    littleEndianSum (Memory.writeBytes addr (bytesOf v n) m) addr n = v % 2 ^ (8 * n) := by
  induction n generalizing addr v m with
  | zero => exact (Nat.mod_one v).symm
  | succ n ih =>
    have hpow : 2 ^ (8 * (n + 1)) = 2 ^ 8 * 2 ^ (8 * n) := by ring
    rw [bytesOf, Memory.writeBytes, littleEndianSum_succ, ih _ _ (write_wfFrom _ hm (Nat.zero_le _)),
      read_writeBytes_below (Nat.lt_succ_self addr), read_write_same _ hm, BitVec.toNat_ofNat, hpow, Nat.mod_mul]

theorem ensureLaunch_wfFrom {s : State} (hs : s.Invariant) : Memory.wfFrom 0 s.ensureLaunch.mem = true := by
  unfold State.ensureLaunch
  split
  · next len hopen =>
    have hwf := (hs.buffer len hopen).2
    rw [Memory.wf, Bool.and_eq_true] at hwf
    exact hwf.1
  · rfl

theorem memRead_placeBlock {s : State} {blk : Nat} (q : Request) (hs : Memory.wfFrom 0 s.mem = true) (hblk : blk < 2 ^ 128) :
    ((s.placeBlock blk).loadRequest q).memRead 0 16 = some blk := by
  have hread := memRead_eq_littleEndianSum (s := (s.placeBlock blk).loadRequest q) (placeBlock_launch s blk) (addr := 0) (n := 16)
    fun k hk => by omega
  rw [hread, loadRequest_mem, placeBlock_mem, littleEndianSum_writeBytes _ _ _ hs, Nat.mod_eq_of_lt hblk]

/-! ## The step at a loaded code -/

theorem step_loadRequest (s : State) {q : Request} {i : Instr} (hdec : decodeRequest q = .ok i) :
    step (s.loadRequest q) = exec i (s.loadRequest q) := by
  rw [step_serve (loadRequest_turn s q), serve, hdec]

/-- A block beside the command word of a request is fetched and run as the instruction it decodes to. -/
theorem step_loadBlock {s : State} (hs : s.Invariant) {cmd : Word16} {blk : Nat} {i : Instr} (hrsv : cmdRsv cmd = 0)
    (hblk : blk < 2 ^ 128) (hdec : decodeCode (.block cmd blk) = .ok i) :
    step (s.loadCode (.block cmd blk)) = exec i (s.loadCode (.block cmd blk)) := by
  have hmem : (s.loadCode (.block cmd blk)).memRead 0 16 = some blk := memRead_placeBlock ⟨cmd, 0⟩ (ensureLaunch_wfFrom hs) hblk
  have hstep {f : Format} {k : Nat → State → Host.Outcome State Fault Refusal}
      (hcmd : mkCmd f.op (cmdX cmd) (cmdY cmd) 0 = cmd) (hi : exec (f.instr (cmdX cmd) (cmdY cmd) 0) = withBlock 0 16 k)
      (hk : k blk = exec i) : step (s.loadCode (.block cmd blk)) = exec i (s.loadCode (.block cmd blk)) := by
    have hreq := decodeRequest_mkCmd_format f (cmdX cmd) (cmdY cmd) 0
    rw [hcmd] at hreq
    refine (step_loadRequest _ hreq).trans ?_
    rw [hi, ← hk]
    exact withBlock_some hmem
  obtain ⟨sg, hcmd, rfl⟩ | ⟨hcmd, rfl⟩ := decodeCode_block_ok hdec
  · cases sg with
    | uf16 => exact hstep (f := .bc6hUf16) (hcmd hrsv) rfl (exec_decodeBc6h ..).symm
    | sf16 => exact hstep (f := .bc6hSf16) (hcmd hrsv) rfl (exec_decodeBc6h ..).symm
  · exact hstep (f := .bc7) (hcmd hrsv) rfl (exec_decodeBc7 ..).symm

/-- Settles O24: a table word is a request, or a block beside a command word whose reserved field is 0. -/
theorem fetchWordRunsTheTableInstruction : Obligations.FetchWordRunsTheTableInstruction := by
  intro s nbits w i hs hw hword
  have hdec : decodeCode (tableCode nbits w) = .ok i := by
    unfold decodeTableWord at hword
    cases h : decodeCode (tableCode nbits w) with
    | ok j => rw [h] at hword; exact congrArg _ (Option.some.inj hword)
    | error e => rw [h] at hword; cases hword
  have hblock {op : BitVec 4} (hdec : decodeCode (.block (mkCmd op 0 0 0) w) = .ok i) :=
    step_loadBlock ((inv_iff s).mp hs) (cmdRsv_mkCmd op 0 0 0) hw hdec
  unfold State.withFetchWord
  unfold tableCode at hdec ⊢
  split_ifs at hdec ⊢
  · exact step_loadRequest _ (decodeCode_request_ok.mp hdec)
  · exact hblock hdec
  · exact hblock hdec

end Sys2Proof.Machine
end

section
/-! SUPPORT. The constant tables (41_tables), and where the indices of a block stand (44_bc6h R224, 45_bc7 R277). -/

namespace Sys2Proof.Machine

/-! ## The tables -/

/-- Each anchor lies in the subset it anchors, and no entry names a subset the partition does not have (41_tables R136). -/
theorem partition_properties : ∀ p : Nat, p < 64 →
    partition2 p 0 = 0 ∧ partition3 p 0 = 0 ∧
    partition2 p (anchor2 p) = 1 ∧ partition3 p (anchor31 p) = 1 ∧ partition3 p (anchor32 p) = 2 ∧
    0 < anchor2 p ∧ anchor2 p < 16 ∧ 0 < anchor31 p ∧ anchor31 p < 16 ∧ 0 < anchor32 p ∧ anchor32 p < 16 ∧
    anchor31 p ≠ anchor32 p ∧ ∀ i : Nat, i < 16 → partition2 p i ≤ 1 ∧ partition3 p i ≤ 2 := by
  decide +kernel

/-- The row of a partition as a list, pixel 0 first. -/
def partitionRow (subset : Nat → Nat) : List Nat := (List.range 16).map subset

theorem partitionRows_nodup :
    ((List.range 64).map fun p => partitionRow (partition2 p)).Nodup ∧
    ((List.range 64).map fun p => partitionRow (partition3 p)).Nodup := by
  decide +kernel

/-- In a table without equal rows, two rows differ at a pixel. -/
theorem exists_pixel_ne {table : Nat → Nat → Nat} (h : ((List.range 64).map fun p => partitionRow (table p)).Nodup) {p p' : Nat}
    (hp : p < 64) (hp' : p' < 64) (hne : p ≠ p') : ∃ i, i < 16 ∧ table p i ≠ table p' i := by
  by_contra hsame
  push Not at hsame
  have hrow : partitionRow (table p) = partitionRow (table p') :=
    List.map_congr_left fun i hi => hsame i (List.mem_range.mp hi)
  exact hne (List.inj_on_of_nodup_map h (List.mem_range.mpr hp) (List.mem_range.mpr hp') hrow)

/-- Settles O35: the tables are compared entry by entry; the rows of a table differ since the list of its rows has none twice. -/
theorem constantTablesHaveTheirProperties : Obligations.ConstantTablesHaveTheirProperties := by
  refine ⟨by decide, by decide, by decide, by decide +kernel, by decide +kernel, by decide +kernel, by decide +kernel,
    by decide +kernel, partition_properties, fun p p' hp hp' hne => ?_⟩
  exact ⟨exists_pixel_ne partitionRows_nodup.1 hp hp' hne, exists_pixel_ne partitionRows_nodup.2 hp hp' hne⟩

/-! ## Where the indices stand -/

theorem indexPos_succ (b : Nat) (anchors : List Nat) (i : Nat) :
    indexPos b anchors (i + 1) = indexPos b anchors i + indexLen b anchors i := by
  simp [indexPos, List.range_succ]

theorem indexPos_mono (b : Nat) (anchors : List Nat) : Monotone (indexPos b anchors) :=
  monotone_nat_of_le_succ fun i => by rw [indexPos_succ]; exact Nat.le_add_right _ _

/-- Each index takes `b` bits, but for one bit at each anchor. -/
theorem indexPos_add_countP {b : Nat} (hb : 1 ≤ b) (anchors : List Nat) (n : Nat) :
    indexPos b anchors n + (List.range n).countP (· ∈ anchors) = n * b := by
  induction n with
  | zero => simp [indexPos]
  | succ n ih =>
    have hlen : indexLen b anchors n + (if n ∈ anchors then 1 else 0) = b := by
      unfold indexLen
      split_ifs <;> omega
    rw [indexPos_succ, List.range_succ, List.countP_append, Nat.succ_mul]
    simp only [List.countP_singleton, decide_eq_true_eq]
    omega

theorem countP_mem_range {l : List Nat} {n : Nat} (hnodup : l.Nodup) (hlt : ∀ j ∈ l, j < n) :
    (List.range n).countP (· ∈ l) = l.length := by
  rw [List.countP_eq_length_filter]
  refine ((List.perm_ext_iff_of_nodup (List.nodup_range.filter _) hnodup).mpr fun j => ?_).length_eq
  simpa using hlt j

theorem anchorsOf_eq_ite {ns : Nat} (hlo : 1 ≤ ns) (hhi : ns ≤ 3) (p : Nat) :
    anchorsOf ns p = if ns = 1 then [0] else if ns = 2 then [0, anchor2 p] else [0, anchor31 p, anchor32 p] := by
  interval_cases ns <;> rfl

/-- The anchors of a partition are as many pixels as it has subsets. -/
theorem anchorsOf_properties {ns p : Nat} (hlo : 1 ≤ ns) (hhi : ns ≤ 3) (hp : p < 64) :
    (anchorsOf ns p).Nodup ∧ (∀ j ∈ anchorsOf ns p, j < 16) ∧ (anchorsOf ns p).length = ns := by
  obtain ⟨-, -, -, -, -, h2, h2', h31, h31', h32, h32', hne, -⟩ := partition_properties p hp
  interval_cases ns <;> simp [anchorsOf] <;> omega

/-- The sixteen indices of a partition end at `16 b - ns`. -/
theorem indexPos_end {ns p b : Nat} (hlo : 1 ≤ ns) (hhi : ns ≤ 3) (hp : p < 64) (hb : 1 ≤ b) :
    indexPos b (anchorsOf ns p) 16 = 16 * b - ns := by
  obtain ⟨hnodup, hlt, hlen⟩ := anchorsOf_properties hlo hhi hp
  have hsum := indexPos_add_countP hb (anchorsOf ns p) 16
  rw [countP_mem_range hnodup hlt, hlen] at hsum
  omega

theorem indexAt_eq_slice {field b i : Nat} {anchors : List Nat} (h : 1 ≤ indexLen b anchors i) : indexAt field b anchors i =
    slice field (indexPos b anchors i + indexLen b anchors i - 1) (indexPos b anchors i) := by
  have hwidth : indexPos b anchors i + indexLen b anchors i - 1 + 1 - indexPos b anchors i = indexLen b anchors i := by omega
  rw [indexAt, slice, hwidth]

/-- Settles O36: an index is a field of the index array, which is a field of the block. -/
theorem indicesAreCutAtTheirPositions : Obligations.IndicesAreCutAtTheirPositions := by
  intro blk ns p b start hi i hlo hhi hp hb _ hend hi16 anc len pos
  have hanc : anchorsOf ns p = anc := anchorsOf_eq_ite hlo hhi p
  have hlen (j : Nat) : len j = indexLen b (anchorsOf ns p) j := by rw [hanc]; rfl
  have hpos (j : Nat) : pos j = start + indexPos b (anchorsOf ns p) j := by rw [hanc]; rfl
  have hlast := indexPos_end hlo hhi hp (b := b) (by omega)
  have hone : 1 ≤ len i := by
    show 1 ≤ b - _
    split_ifs <;> omega
  have hin : indexPos b (anchorsOf ns p) i + len i ≤ 16 * b - ns := by
    rw [hlen, ← indexPos_succ, ← hlast]
    exact indexPos_mono b _ (by omega)
  refine ⟨hanc, ?_, ?_, ?_⟩
  · have htop : pos i + len i - 1 = start + (indexPos b (anchorsOf ns p) i + len i - 1) := by
      rw [hpos]
      omega
    rw [indexAt_eq_slice (hlen i ▸ hone), ← hlen, slice_slice blk (by omega), htop, hpos]
  · rw [hlen]
    exact Nat.mod_lt _ (Nat.two_pow_pos _)
  · rw [hlen, hpos, Nat.add_assoc, ← indexPos_succ, hlast, hend]

end Sys2Proof.Machine
end

section
/-! SUPPORT. The corner cases of the LDR palettes, and the range of every LDR response (40_primitives section 3, 42_bc1_bc3 section 3,
43_bc4_bc5 section 2). -/

namespace Sys2Proof.Machine

/-! ## Values in [0, 1] -/

/-- An exact value in [0, 1]. -/
def Frac.InUnit (q : Frac) : Prop := 0 < q.den ∧ q.num ≤ q.den

/-- A word of a number in [0, 1]: the pattern is not above that of 1.0. -/
def WordInUnit (w : F32) : Prop := w.toNat ≤ 0x3F800000

theorem fracValue_mem_unit {q : Frac} (h : Frac.InUnit q) : 0 ≤ fracValue q ∧ fracValue q ≤ 1 := by
  obtain ⟨hden, hle⟩ := h
  have hle' := fracValue_le_one hden hle
  rw [patternValue_one] at hle'
  exact ⟨by unfold fracValue; positivity, hle'⟩

theorem toF32_inUnit (m : ToF32) {q : Frac} (h : Frac.InUnit q) : WordInUnit (toF32 m q) := by
  obtain ⟨hword, hone⟩ := toNat_toF32 (m := m) h.1 h.2
  exact hword.trans_le hone

theorem f32Zero_inUnit : WordInUnit f32Zero := by unfold WordInUnit; decide

theorem patternValue_zero : patternValue 0 = 0 := by simp [patternValue]

theorem f32Value_mem_unit {w : F32} (h : WordInUnit w) : 0 ≤ f32Value w ∧ f32Value w ≤ 1 := by
  unfold WordInUnit at h
  have hmono := patternValue_strictMono.monotone
  rw [f32Value_eq_patternValue (by omega), ← patternValue_zero, ← patternValue_one]
  exact ⟨hmono (Nat.zero_le _), hmono h⟩

/-- Every setting of `toF32` gives a number of binary32 itself. -/
theorem toF32_eq_of_patternValue (m : ToF32) {q : Frac} {w : F32} (h : Frac.InUnit q) (hw : patternValue w.toNat = fracValue q) :
    toF32 m q = w :=
  BitVec.eq_of_toNat_eq ((toNat_toF32 h.1 h.2).1.trans (roundedPattern_of_eq h.1 hw))

theorem zero_inUnit : Frac.InUnit ⟨0, 1⟩ := ⟨Nat.one_pos, Nat.zero_le 1⟩

theorem one_inUnit : Frac.InUnit ⟨1, 1⟩ := ⟨Nat.one_pos, le_rfl⟩

theorem toF32_zero (m : ToF32) : toF32 m ⟨0, 1⟩ = f32Zero :=
  toF32_eq_of_patternValue m zero_inUnit (patternValue_zero.trans (by simp [fracValue]))

theorem toF32_one (m : ToF32) : toF32 m ⟨1, 1⟩ = f32One :=
  toF32_eq_of_patternValue m one_inUnit (patternValue_one.trans (by simp [fracValue]))

/-! ## The palettes of BC1 -/

theorem bc1Entry_of_gt {p : Nat} (h : slice p 31 16 < slice p 15 0) (i : Nat) :
    bc1Entry false p i = pal4 (slice p 15 0) (slice p 31 16) (slice p (33 + 2 * i) (32 + 2 * i)) := by
  rw [bc1Entry_eq_ite, if_pos (.inr h)]

theorem bc1Entry_of_le {p : Nat} (h : slice p 15 0 ≤ slice p 31 16) (i : Nat) :
    bc1Entry false p i = pal3 (slice p 15 0) (slice p 31 16) (slice p (33 + 2 * i) (32 + 2 * i)) := by
  rw [bc1Entry_eq_ite, if_neg (by simpa using h)]

theorem bc1_code_lt (p i : Nat) : slice p (33 + 2 * i) (32 + 2 * i) < 4 := by
  have hwidth : 33 + 2 * i + 1 - (32 + 2 * i) = 2 := by omega
  have h := slice_lt p (33 + 2 * i) (32 + 2 * i)
  rwa [hwidth] at h

/-- An entry is a blend of the two colours, or transparent black, code 3 of three colours. -/
theorem pal4_eq_rgbBlend (c0 c1 code : Nat) : ∃ k0 k1, pal4 c0 c1 code = rgbBlend k0 k1 (k0 + k1) c0 c1 ∧ 0 < k0 + k1 := by
  unfold pal4
  split
  · exact ⟨1, 0, rfl, by decide⟩
  · exact ⟨0, 1, rfl, by decide⟩
  · exact ⟨2, 1, rfl, by decide⟩
  · exact ⟨1, 2, rfl, by decide⟩

theorem pal3_eq_rgbBlend (c0 c1 : Nat) {code : Nat} (h : code < 3) :
    ∃ k0 k1, pal3 c0 c1 code = rgbBlend k0 k1 (k0 + k1) c0 c1 ∧ 0 < k0 + k1 := by
  match code, h with
  | 0, _ => exact ⟨1, 0, rfl, by decide⟩
  | 1, _ => exact ⟨0, 1, rfl, by decide⟩
  | 2, _ => exact ⟨1, 1, rfl, by decide⟩

/-- Equal endpoints blend to themselves. -/
theorem rgbBlend_self {k0 k1 : Nat} (h : 0 < k0 + k1) (c : Nat) :
    fracValue (rgbBlend k0 k1 (k0 + k1) c c).r = slice c 15 11 / 31 ∧
    fracValue (rgbBlend k0 k1 (k0 + k1) c c).g = slice c 10 5 / 63 ∧
    fracValue (rgbBlend k0 k1 (k0 + k1) c c).b = slice c 4 0 / 31 := by
  obtain ⟨hr, hg, hb, -⟩ := rgbBlend_values k0 k1 (k0 + k1) c c
  have hne : ((k0 + k1 : Nat) : ℚ) ≠ 0 := by exact_mod_cast h.ne'
  have hmix (v : ℚ) : (k0 * v + k1 * v) / (k0 + k1 : Nat) = v := by
    rw [← add_mul, ← Nat.cast_add, mul_comm, mul_div_cancel_right₀ v hne]
  rw [hr, hg, hb, hmix, hmix, hmix]
  exact ⟨rfl, rfl, rfl⟩

/-- Settles O39: four colours are blends, with alpha 1; of three, code 3 is transparent black and the others are blends. -/
theorem bc1CornerCases : Obligations.Bc1CornerCases := by
  intro cfg blk i _ c0 c1 code out
  have hcode : code < 4 := bc1_code_lt blk i
  have halpha : out.a = toF32 cfg.toF32 (bc1Entry false blk i).a := rfl
  have hfour (h : c1 < c0) : out.a = f32One := by
    obtain ⟨k0, k1, hpal, -⟩ := pal4_eq_rgbBlend c0 c1 code
    rw [halpha, bc1Entry_of_gt h, hpal]
    exact toF32_one _
  have hthree (h : c0 ≤ c1) (hne : code ≠ 3) : out.a = f32One := by
    obtain ⟨k0, k1, hpal, -⟩ := pal3_eq_rgbBlend c0 c1 (code := code) (by omega)
    rw [halpha, bc1Entry_of_le h, hpal]
    exact toF32_one _
  have hblack (h : c0 ≤ c1) (h3 : code = 3) : out = ⟨f32Zero, f32Zero, f32Zero, f32Zero⟩ := by
    have hentry : bc1Entry false blk i = pal3 c0 c1 3 := h3 ▸ bc1Entry_of_le h i
    simp only [out, bc1Color, hentry, pal3, toF32_zero]
  refine ⟨hfour, hblack, fun heq hne => ?_, ?_⟩
  · obtain ⟨k0, k1, hpal, hpos⟩ := pal3_eq_rgbBlend c0 c1 (code := code) (by omega)
    have hentry : bc1Entry false blk i = rgbBlend k0 k1 (k0 + k1) c0 c0 := by
      rw [bc1Entry_of_le heq.le, hpal, heq]
    obtain ⟨hr, hg, hb⟩ := rgbBlend_self hpos c0
    rw [hentry]
    exact ⟨hr, hg, hb, hthree heq.le hne⟩
  · rcases Nat.lt_or_ge c1 c0 with h | h
    · exact .inr (hfour h)
    · by_cases h3 : code = 3
      · exact .inl (congrArg Color.a (hblack h h3))
      · exact .inr (hthree h h3)

/-! ## The BC4 plane -/

theorem bc4Eight_inUnit {e0 e1 k : Nat} (h0 : e0 ≤ 255) (h1 : e1 ≤ 255) (hk : k < 8) : Frac.InUnit (bc4Eight e0 e1 k) := by
  refine ⟨?_, ?_⟩ <;> interval_cases k <;> simp only [bc4Eight] <;> omega

theorem bc4Six_inUnit {e0 e1 : Nat} (h0 : e0 ≤ 255) (h1 : e1 ≤ 255) (k : Nat) : Frac.InUnit (bc4Six e0 e1 k) := by
  unfold Frac.InUnit bc4Six
  split <;> dsimp only <;> omega

theorem bc4Plane_inUnit (p i : Nat) : Frac.InUnit (bc4Plane p i) := by
  have h0 : slice p 7 0 ≤ 255 := Nat.le_of_lt_succ (slice_lt p 7 0)
  have h1 : slice p 15 8 ≤ 255 := Nat.le_of_lt_succ (slice_lt p 15 8)
  have hk : slice p (18 + 3 * i) (16 + 3 * i) < 8 := by
    have hwidth : 18 + 3 * i + 1 - (16 + 3 * i) = 3 := by omega
    have h := slice_lt p (18 + 3 * i) (16 + 3 * i)
    rwa [hwidth] at h
  rcases Nat.lt_or_ge (slice p 15 8) (slice p 7 0) with h | h
  · rw [bc4Plane_of_gt h]
    exact bc4Eight_inUnit h0 h1 hk
  · rw [bc4Plane_of_le h]
    exact bc4Six_inUnit h0 h1 _

/-- Settles O42: the values are blends of the endpoints, whose order they keep or reverse. -/
theorem bc4PlaneCornerCases : Obligations.Bc4PlaneCornerCases := by
  refine ⟨fun p i => fracValue_mem_unit (bc4Plane_inUnit p i), fun e0 e1 => ⟨fun h => ?_, fun h => ?_, fun k hk => ?_, ?_, ?_⟩⟩
  · have hlt : (e1 : ℚ) < e0 := by exact_mod_cast h
    have hends : fracValue (bc4Eight e0 e1 0) = e0 / 255 ∧ fracValue (bc4Eight e0 e1 1) = e1 / 255 := ⟨rfl, rfl⟩
    rw [← List.isChain_iff_pairwise]
    simp only [gt_iff_lt, List.map_cons, hends, le_refl, fracValue_bc4Eight, Nat.reduceSub, Nat.cast_ofNat, Nat.add_one_sub_one,
      Nat.cast_one, one_mul, Nat.reduceLeDiff, List.map_nil, List.isChain_cons_cons, List.IsChain.singleton, and_true]
    refine ⟨?_, ?_, ?_, ?_, ?_, ?_, ?_⟩ <;> linarith
  · have hlt : (e0 : ℚ) < e1 := by exact_mod_cast h
    have hends : fracValue (bc4Six e0 e1 0) = e0 / 255 ∧ fracValue (bc4Six e0 e1 1) = e1 / 255 := ⟨rfl, rfl⟩
    rw [← List.isChain_iff_pairwise]
    simp only [List.map_cons, hends, le_refl, Nat.reduceLT, fracValue_bc4Six, Nat.reduceSub, Nat.cast_ofNat, Nat.add_one_sub_one,
      Nat.cast_one, one_mul, Nat.reduceLeDiff, Nat.lt_add_one, List.map_nil, List.isChain_cons_cons, List.IsChain.singleton, and_true]
    refine ⟨?_, ?_, ?_, ?_, ?_⟩ <;> linarith
  · rcases Nat.lt_or_ge k 2 with h2 | h2
    · interval_cases k <;> rfl
    · have hsum : ((6 - k : Nat) : ℚ) + (k - 1 : Nat) = 5 := by exact_mod_cast (by omega : 6 - k + (k - 1) = 5)
      rw [fracValue_bc4Six e0 e0 h2 hk, ← add_mul, hsum, mul_div_mul_left _ _ (by norm_num)]
  · simp [bc4Six, fracValue]
  · simp [bc4Six, fracValue]

/-! ## The responses -/

theorem rgbBlend_inUnit {k0 k1 : Nat} (h : 0 < k0 + k1) (c0 c1 : Nat) :
    let e := rgbBlend k0 k1 (k0 + k1) c0 c1
    Frac.InUnit e.r ∧ Frac.InUnit e.g ∧ Frac.InUnit e.b ∧ Frac.InUnit e.a := by
  have hmix {a b n : Nat} (hn : 0 < n) (ha : a ≤ n) (hb : b ≤ n) : Frac.InUnit ⟨k0 * a + k1 * b, (k0 + k1) * n⟩ := by
    refine ⟨Nat.mul_pos h hn, ?_⟩
    rw [Nat.add_mul]
    exact Nat.add_le_add (Nat.mul_le_mul_left _ ha) (Nat.mul_le_mul_left _ hb)
  have hfield (c hi lo : Nat) : slice c hi lo ≤ 2 ^ (hi + 1 - lo) - 1 := Nat.le_sub_one_of_lt (slice_lt c hi lo)
  exact ⟨hmix (by decide) (hfield c0 15 11) (hfield c1 15 11), hmix (by decide) (hfield c0 10 5) (hfield c1 10 5),
    hmix (by decide) (hfield c0 4 0) (hfield c1 4 0), one_inUnit⟩

theorem bc1Entry_inUnit (alwaysFour : Bool) (p i : Nat) :
    let e := bc1Entry alwaysFour p i
    Frac.InUnit e.r ∧ Frac.InUnit e.g ∧ Frac.InUnit e.b ∧ Frac.InUnit e.a := by
  rw [bc1Entry_eq_ite]
  have hcode := bc1_code_lt p i
  generalize slice p (33 + 2 * i) (32 + 2 * i) = code at *
  split
  · obtain ⟨k0, k1, hpal, hpos⟩ := pal4_eq_rgbBlend (slice p 15 0) (slice p 31 16) code
    rw [hpal]
    exact rgbBlend_inUnit hpos _ _
  · rcases Nat.lt_or_ge code 3 with h3 | h3
    · obtain ⟨k0, k1, hpal, hpos⟩ := pal3_eq_rgbBlend (slice p 15 0) (slice p 31 16) h3
      rw [hpal]
      exact rgbBlend_inUnit hpos _ _
    · obtain rfl : code = 3 := by omega
      exact ⟨zero_inUnit, zero_inUnit, zero_inUnit, zero_inUnit⟩

/-- A response whose four words are numbers in [0, 1]. -/
def Color.InUnit (c : Color) : Prop := ∀ w ∈ [c.r, c.g, c.b, c.a], WordInUnit w

theorem color_inUnit {r g b a : F32} (hr : WordInUnit r) (hg : WordInUnit g) (hb : WordInUnit b) (ha : WordInUnit a) :
    Color.InUnit ⟨r, g, b, a⟩ := by
  simp [Color.InUnit, hr, hg, hb, ha]

section Colors

variable (cfg : Config) (blk i : Nat)

theorem bc1Color_inUnit : Color.InUnit (bc1Color cfg blk i) := by
  obtain ⟨hr, hg, hb, ha⟩ := bc1Entry_inUnit false blk i
  exact color_inUnit (toF32_inUnit _ hr) (toF32_inUnit _ hg) (toF32_inUnit _ hb) (toF32_inUnit _ ha)

theorem bc3Color_inUnit : Color.InUnit (bc3Color cfg blk i) := by
  obtain ⟨hr, hg, hb, -⟩ := bc1Entry_inUnit (decide (cfg.bc3ColorMode = .alwaysFour)) (slice blk 127 64) i
  exact color_inUnit (toF32_inUnit _ hr) (toF32_inUnit _ hg) (toF32_inUnit _ hb) (toF32_inUnit _ (bc4Plane_inUnit _ i))

theorem bc4Color_inUnit : Color.InUnit (bc4Color cfg blk i) :=
  color_inUnit (toF32_inUnit _ (bc4Plane_inUnit _ i)) f32Zero_inUnit f32Zero_inUnit f32Zero_inUnit

theorem bc5Color_inUnit : Color.InUnit (bc5Color cfg blk i) :=
  color_inUnit (toF32_inUnit _ (bc4Plane_inUnit _ i)) (toF32_inUnit _ (bc4Plane_inUnit _ i)) f32Zero_inUnit f32Zero_inUnit

theorem bc7Out_inUnit {v : Int} (h : 0 ≤ v ∧ v ≤ 255) : WordInUnit (bc7Out cfg v) :=
  toF32_inUnit _ ⟨Nat.succ_pos 254, by simpa using h.2⟩

/-- Rotation swaps channels and keeps what all of them have in common. -/
theorem bc7Rotate_forall {P : Int → Prop} (rot : Nat) {v : Rgba} (h : P v.r ∧ P v.g ∧ P v.b ∧ P v.a) :
    P (bc7Rotate rot v).r ∧ P (bc7Rotate rot v).g ∧ P (bc7Rotate rot v).b ∧ P (bc7Rotate rot v).a := by
  unfold bc7Rotate
  split <;> tauto

theorem bc7Color_inUnit {m : Bc7Mode} {f : Bc7Fields} (hm : m ≠ .reserved) (hf : f.fits (bc7Desc m) = true) :
    Color.InUnit (bc7Color cfg (bc7Desc m) f i) := by
  obtain ⟨hr, hg, hb, ha⟩ := bc7Rotate_forall (P := fun v => 0 ≤ v ∧ v ≤ 255) f.rot (bc7Values_mem_Icc hm hf i)
  exact color_inUnit (bc7Out_inUnit cfg hr) (bc7Out_inUnit cfg hg) (bc7Out_inUnit cfg hb) (bc7Out_inUnit cfg ha)

end Colors

/-- A meaning that ends the request in a response with the property. -/
def RespondsWith (P : Color → Prop) (k : State → Host.Outcome State Fault Refusal) : Prop := ∀ s, ∃ c, P c ∧ k s = respond c s

theorem respondsWith_respond {P : Color → Prop} {c : Config → Color} (h : ∀ cfg, P (c cfg)) :
    RespondsWith P fun s => respond (c s.cfg) s := fun s => ⟨c s.cfg, h s.cfg, rfl⟩

theorem runBc7_respondsInUnit (x y : Coord) (blk : Nat) : RespondsWith Color.InUnit (runBc7 x y blk) := by
  unfold runBc7
  cases bc7ModeOf blk
  case m0 | m1 | m2 | m3 | m4 | m5 | m6 | m7 =>
    exact respondsWith_respond fun cfg => bc7Color_inUnit cfg _ (by decide) (bc7_ofBlock_fits ..)
  case reserved =>
    exact respondsWith_respond fun _ => color_inUnit f32Zero_inUnit f32Zero_inUnit f32Zero_inUnit f32Zero_inUnit

/-- The requests that are not BC6H ones fetch a block and respond in [0, 1]. -/
theorem serve_ldr {q : Request} (hop : (cmdOp q.cmd).toNat < 7) (h4 : (cmdOp q.cmd).toNat ≠ 4) (h5 : (cmdOp q.cmd).toNat ≠ 5)
    (hrsv : cmdRsv q.cmd = 0) :
    ∃ size k, (∀ blk, RespondsWith Color.InUnit (k blk)) ∧ ∀ s, serve q s = withBlock q.off size k s := by
  have hserves {i : Instr} {size : Nat} {k : Nat → State → Host.Outcome State Fault Refusal} (hdec : decodeRequest q = .ok i)
      (hk : ∀ blk, RespondsWith Color.InUnit (k blk)) (hexec : exec i = withBlock q.off size k) :
      ∃ size k, (∀ blk, RespondsWith Color.InUnit (k blk)) ∧ ∀ s, serve q s = withBlock q.off size k s :=
    ⟨size, k, hk, fun s => by simp only [serve, hdec, hexec]⟩
  have hdec := decodeRequest.eq_def q
  simp only [if_pos hrsv] at hdec
  generalize (cmdOp q.cmd).toNat = n at hop hdec h4 h5
  match n, hop with
  | 0, _ => exact hserves hdec (fun blk => respondsWith_respond fun cfg => bc1Color_inUnit cfg blk _) rfl
  | 1, _ => exact hserves hdec (fun blk => respondsWith_respond fun cfg => bc3Color_inUnit cfg blk _) rfl
  | 2, _ => exact hserves hdec (fun blk => respondsWith_respond fun cfg => bc4Color_inUnit cfg blk _) rfl
  | 3, _ => exact hserves hdec (fun blk => respondsWith_respond fun cfg => bc5Color_inUnit cfg blk _) rfl
  | 6, _ => exact hserves hdec (runBc7_respondsInUnit _ _) rfl

/-- A step that ends the request in `o` and in `o'` ends it in one outcome. -/
theorem step_outcome_inj {s : State} {u : Nat} {q : Request} {rest : List Agent} {o o' : ReqOutcome}
    (h : step s = .next (s.finish u q rest o)) (h' : step s = .next (s.finish u q rest o')) : o = o' :=
  finish_outcome_inj (Host.Outcome.next.inj (h.symm.trans h'))

/-- Settles O44: of the ends a request can have, only the meaning run on a fetched block is a response. -/
theorem ldrOutputsLieInTheUnitInterval : Obligations.LdrOutputsLieInTheUnitInterval := by
  intro s u q rest c hturn h4 h5 hstep
  have h4' : (cmdOp q.cmd).toNat ≠ 4 := fun h => h4 (BitVec.eq_of_toNat_eq h)
  have h5' : (cmdOp q.cmd).toNat ≠ 5 := fun h => h5 (BitVec.eq_of_toNat_eq h)
  suffices h : Color.InUnit c from fun w hw => ⟨h w hw, f32Value_mem_unit (h w hw)⟩
  rcases Nat.lt_or_ge (cmdOp q.cmd).toNat 7 with hop | hop
  · by_cases hrsv : cmdRsv q.cmd = 0
    · obtain ⟨size, k, hk, hserve⟩ := serve_ldr hop h4' h5' hrsv
      have hfetch := (step_serve hturn).trans (hserve s)
      obtain ⟨-, hfault⟩ | ⟨blk, -, hblk⟩ := withBlock_cases q.off size k s
      · cases step_outcome_inj hstep (hfetch.trans (hfault.trans (takeFault_serve _ _ hturn)))
      · obtain ⟨c', hc', hresp⟩ := hk blk s
        cases step_outcome_inj hstep (hfetch.trans ((hblk.trans hresp).trans (respond_serve c' hturn)))
        exact hc'
    · cases step_outcome_inj hstep (step_reservedField hturn hop hrsv)
  · cases step_outcome_inj hstep (step_reservedOp hturn hop)

end Sys2Proof.Machine
end

section
/-! SUPPORT. The range of every BC6H response (40_primitives section 3, 44_bc6h section 6): endpoints of well-formed fields, then
unquantizing, interpolating, finishing and widening, each with its range. -/

namespace Sys2Proof.Machine

/-! ## Widening a finite half -/

/-- A finite half widens to at most 65504, the pattern 0x477FE000. -/
theorem halfMagnitude_le {e f : Nat} (he : e ≤ 30) (hf : f < 2 ^ 10) : halfMagnitude e f ≤ 0x477FE000 := by
  rcases Nat.eq_zero_or_pos e with rfl | hpos
  · by_cases hf0 : f = 0
    · rw [hf0]
      decide
    · obtain ⟨-, hhi, hmag⟩ := halfMagnitude_subnormal hf0 hf
      have hlog : f.log2 < 10 := (Nat.log2_lt hf0).mpr hf
      omega
  · rw [halfMagnitude_normal hpos he]
    omega

theorem patternValue_maxHalf : patternValue 0x477FE000 = 65504 := by
  have h := patternValue_of_units (e := 142) (m := 2 ^ 23 + 0x7FE000) (by decide) (by decide) (by decide)
  norm_num at h
  exact h

/-- A word of a number in [-65504, 65504]. -/
def WordInHalfRange (w : F32) : Prop := f32Exp w ≠ 255 ∧ -65504 ≤ f32Value w ∧ f32Value w ≤ 65504

/-- A half with a finite magnitude keeps to the half range, and without a sign it is not negative. -/
theorem halfToFloat_range {h : Word16} (hmag : h.toNat % 2 ^ 15 ≤ 0x7BFF) :
    WordInHalfRange (halfToFloat h) ∧ (h.toNat < 2 ^ 15 → 0 ≤ f32Value (halfToFloat h)) := by
  have hs : h.toNat / 2 ^ 15 < 2 := by omega
  have hle : halfMagnitude (h.toNat / 2 ^ 10 % 2 ^ 5) (h.toNat % 2 ^ 10) ≤ 0x477FE000 :=
    halfMagnitude_le (by omega) (Nat.mod_lt _ (by decide))
  have hsign : h.toNat < 2 ^ 15 → h.toNat / 2 ^ 15 = 0 := by omega
  rw [WordInHalfRange, halfToFloat_eq]
  generalize h.toNat / 2 ^ 15 = s, halfMagnitude (h.toNat / 2 ^ 10 % 2 ^ 5) (h.toNat % 2 ^ 10) = p at *
  have hp0 : 0 ≤ patternValue p := patternValue_zero ▸ patternValue_strictMono.monotone (Nat.zero_le p)
  have hp1 : patternValue p ≤ 65504 := patternValue_maxHalf ▸ patternValue_strictMono.monotone hle
  rw [f32Exp_signed hs (by omega), f32Value_signed hs (by omega)]
  refine ⟨⟨by omega, ?_⟩, fun hlt => by simpa [hsign hlt] using hp0⟩
  interval_cases s
  · rw [pow_zero, one_mul]
    exact ⟨by linarith, hp1⟩
  · rw [pow_one, neg_one_mul]
    exact ⟨by linarith, by linarith⟩

/-! ## A channel -/

/-- What a channel word of a BC6H response can be; `infinite` says when it may be minus infinity. -/
def ChannelInRange (sg : Signedness) (infinite : Prop) (w : F32) : Prop :=
  (sg = .uf16 → f32Exp w ≠ 255 ∧ 0 ≤ f32Value w ∧ f32Value w ≤ 65504) ∧
  (sg = .sf16 → WordInHalfRange w ∨ (w = 0xFF800000 ∧ infinite))

/-- The range of an endpoint component of `n` bits. -/
def ComponentInRange (sg : Signedness) (n : Nat) (v : Int) : Prop :=
  match sg with
  | .uf16 => 0 ≤ v ∧ v < 2 ^ n
  | .sf16 => -(2 : Int) ^ (n - 1) ≤ v ∧ v < 2 ^ (n - 1)

theorem finishU_range {v : Int} (hlo : 0 ≤ v) (hhi : v ≤ 0xFFFF) :
    f32Exp (halfToFloat (finishU v)) ≠ 255 ∧ 0 ≤ f32Value (halfToFloat (finishU v)) ∧
      f32Value (halfToFloat (finishU v)) ≤ 65504 := by
  obtain ⟨-, hfinite⟩ := bc6hFinishGivesHalfPatterns.1 v hlo hhi
  obtain ⟨⟨hexp, -, hle⟩, hpos⟩ := halfToFloat_range (h := finishU v) (by omega)
  exact ⟨hexp, hpos (by omega), hle⟩

theorem finishS_range (negZero : Bool) {v : Int} (hlo : -32767 ≤ v) (hhi : v ≤ 32767) :
    WordInHalfRange (halfToFloat (finishS negZero v)) := (halfToFloat_range (finishS_magnitude_le negZero hlo hhi)).1

theorem finishS_min (negZero : Bool) : halfToFloat (finishS negZero (-32768)) = 0xFF800000 := by
  cases negZero <;> decide

/-- Only the bypass at 16 bits lets an unquantized component be -32768. -/
theorem unqS_range (bypass : Bool) {n : Nat} (hn : 1 ≤ n) (hn' : n ≤ 16) {v : Int} (h : ComponentInRange .sf16 n v) :
    -32768 ≤ unqS bypass v n ∧ unqS bypass v n ≤ 32767 ∧ (¬(n = 16 ∧ bypass = true) → -32767 ≤ unqS bypass v n) := by
  by_cases hby : n = 16 ∧ bypass = true
  · obtain ⟨rfl, rfl⟩ := hby
    obtain ⟨hlo, hhi⟩ := h
    rw [unqS_bypass_sixteen]
    exact ⟨by omega, by omega, fun h => absurd ⟨rfl, rfl⟩ h⟩
  · have hfalse : unqS bypass v n = unqS false v n := by simp only [unqS, hby, and_false, Bool.false_eq_true, if_false]
    obtain ⟨hlo, hhi⟩ := abs_le.mp (unqS_false_abs_le v n)
    rw [hfalse]
    exact ⟨by omega, by omega, fun _ => by omega⟩

theorem bc6hChannel_uf16 (cfg : Config) (n : Nat) (lo hi : Int) (w : Nat) :
    bc6hChannel cfg .uf16 n lo hi w = halfToFloat (finishU (interpolate (unqU lo n) (unqU hi n) w)) := rfl

theorem bc6hChannel_sf16 (cfg : Config) (n : Nat) (lo hi : Int) (w : Nat) : bc6hChannel cfg .sf16 n lo hi w =
    halfToFloat (finishS cfg.bc6hSf16NegZero
      (interpolate (unqS cfg.bc6hSf16Bypass16 lo n) (unqS cfg.bc6hSf16Bypass16 hi n) w)) := rfl

theorem bc6hChannel_inRange (cfg : Config) {sg : Signedness} {n : Nat} (hn : 1 ≤ n) (hn' : n ≤ 16) {lo hi : Int} {w : Nat}
    (hw : w ≤ 64) (hlo : ComponentInRange sg n lo) (hhi : ComponentInRange sg n hi) :
    ChannelInRange sg (n = 16 ∧ cfg.bc6hSf16Bypass16 = true) (bc6hChannel cfg sg n lo hi w) := by
  cases sg with
  | uf16 =>
    obtain ⟨hlo0, hlo1⟩ := unqU_range hn hlo.1 hlo.2
    obtain ⟨hhi0, hhi1⟩ := unqU_range hn hhi.1 hhi.2
    obtain ⟨hmin, hmax⟩ := interpolate_mem_Icc (e0 := unqU lo n) (e1 := unqU hi n) hw
    rw [bc6hChannel_uf16]
    exact ⟨fun _ => finishU_range (by omega) (by omega), fun h => nomatch h⟩
  | sf16 =>
    obtain ⟨hlo0, hlo1, hlo2⟩ := unqS_range cfg.bc6hSf16Bypass16 hn hn' hlo
    obtain ⟨hhi0, hhi1, hhi2⟩ := unqS_range cfg.bc6hSf16Bypass16 hn hn' hhi
    obtain ⟨hmin, hmax⟩ := interpolate_mem_Icc (e0 := unqS cfg.bc6hSf16Bypass16 lo n) (e1 := unqS cfg.bc6hSf16Bypass16 hi n) hw
    rw [bc6hChannel_sf16]
    refine ⟨(fun h => nomatch h), fun _ => ?_⟩
    generalize interpolate (unqS cfg.bc6hSf16Bypass16 lo n) (unqS cfg.bc6hSf16Bypass16 hi n) w = v at *
    rcases lt_or_ge v (-32767) with hv | hv
    · obtain rfl : v = -32768 := by omega
      refine .inr ⟨finishS_min _, ?_⟩
      by_contra hby
      have := hlo2 hby
      have := hhi2 hby
      omega
    · exact .inl (finishS_range _ hv (by omega))

/-! ## Endpoints -/

theorem bc6hBase_inRange (sg : Signedness) {n v : Nat} (hn : 1 ≤ n) (hv : v < 2 ^ n) : ComponentInRange sg n (bc6hBase sg n v) := by
  cases sg with
  | uf16 =>
    have hv' : (v : Int) < 2 ^ n := by exact_mod_cast hv
    exact ⟨Int.natCast_nonneg v, hv'⟩
  | sf16 =>
    obtain ⟨hlo, hhi, -⟩ := sextReadsTwosComplement.1 n v hn
    exact ⟨hlo, hhi⟩

theorem bc6hDelta_inRange (sg : Signedness) {n : Nat} (hn : 1 ≤ n) (dw : Nat) (base : Int) (f : Nat) :
    ComponentInRange sg n (bc6hDelta sg n dw base f) := by
  cases sg with
  | uf16 => exact bc6hDelta_uf16_range n dw base f
  | sf16 => exact bc6hDelta_sf16_range hn dw base f

/-- An endpoint with every component in the range of `n` bits. -/
def EndpointInRange (sg : Signedness) (n : Nat) (e : Rgb Int) : Prop :=
  ComponentInRange sg n e.r ∧ ComponentInRange sg n e.g ∧ ComponentInRange sg n e.b

theorem rgb_fits_iff {nr ng nb : Nat} {c : Rgb Nat} : c.fits nr ng nb = true ↔ c.r < 2 ^ nr ∧ c.g < 2 ^ ng ∧ c.b < 2 ^ nb := by
  simp [Rgb.fits, fits, and_assoc]

theorem bc6hEndpoint0_inRange (sg : Signedness) {d : Bc6hDesc} (hn : 1 ≤ d.epb) {w : Rgb Nat}
    (hw : w.fits d.epb d.epb d.epb = true) : EndpointInRange sg d.epb (bc6hEndpoint0 sg d w) := by
  obtain ⟨hr, hg, hb⟩ := rgb_fits_iff.mp hw
  exact ⟨bc6hBase_inRange sg hn hr, bc6hBase_inRange sg hn hg, bc6hBase_inRange sg hn hb⟩

/-- The fields of a mode that is not transformed have the base width. -/
def PlainWidths (d : Bc6hDesc) : Prop := d.t = false → d.dr = d.epb ∧ d.dg = d.epb ∧ d.db = d.epb

theorem bc6hEndpointK_inRange (sg : Signedness) {d : Bc6hDesc} (hn : 1 ≤ d.epb) (hplain : PlainWidths d) (w : Rgb Nat)
    {f : Rgb Nat} (hf : f.fits d.dr d.dg d.db = true) : EndpointInRange sg d.epb (bc6hEndpointK sg d w f) := by
  cases ht : d.t with
  | true =>
    rw [bc6hEndpointK_of_transformed ht]
    exact ⟨bc6hDelta_inRange sg hn .., bc6hDelta_inRange sg hn .., bc6hDelta_inRange sg hn ..⟩
  | false =>
    obtain ⟨hr, hg, hb⟩ := hplain ht
    rw [hr, hg, hb] at hf
    rw [bc6hEndpointK_of_not_transformed ht]
    exact bc6hEndpoint0_inRange sg hn hf

/-! ## Responses -/

/-- A response with alpha 1.0 and its channels in range. -/
def ResponseInRange (sg : Signedness) (infinite : Prop) (c : Color) : Prop :=
  c.a = 0x3F800000 ∧ ∀ w ∈ [c.r, c.g, c.b], ChannelInRange sg infinite w

theorem bc6hPixel_inRange (cfg : Config) {sg : Signedness} {d : Bc6hDesc} (hn : 1 ≤ d.epb) (hn' : d.epb ≤ 16)
    {lo hi : Rgb Int} (hlo : EndpointInRange sg d.epb lo) (hhi : EndpointInRange sg d.epb hi) (idx : Nat) :
    ResponseInRange sg (d.epb = 16 ∧ cfg.bc6hSf16Bypass16 = true) (bc6hPixel cfg sg d lo hi idx) := by
  obtain ⟨hlor, hlog, hlob⟩ := hlo
  obtain ⟨hhir, hhig, hhib⟩ := hhi
  have hw := weight_le_64 d.ib idx
  exact ⟨rfl, List.forall_mem_cons.mpr ⟨bc6hChannel_inRange cfg hn hn' hw hlor hhir,
    List.forall_mem_cons.mpr ⟨bc6hChannel_inRange cfg hn hn' hw hlog hhig,
    List.forall_mem_singleton.mpr (bc6hChannel_inRange cfg hn hn' hw hlob hhib)⟩⟩⟩

/-- R201: the base width of a mode is 6 to 16 bits, 16 in mode 14 alone; modes 10 and 11 are not transformed. -/
theorem bc6hDesc_widths {m : Bc6hMode} (hm : (bc6hDesc m).ns ≠ 0) :
    1 ≤ (bc6hDesc m).epb ∧ (bc6hDesc m).epb ≤ 16 ∧ PlainWidths (bc6hDesc m) ∧ ((bc6hDesc m).epb = 16 → m = .m14) := by
  unfold PlainWidths
  cases m
  case r13 | r17 | r1B | r1F => exact absurd rfl hm
  all_goals decide

/-- Minus infinity needs mode 14 and the bypass. -/
def MayBeInfinite (cfg : Config) (m : Bc6hMode) : Prop := m = .m14 ∧ cfg.bc6hSf16Bypass16 = true

theorem ResponseInRange.mono {sg : Signedness} {p p' : Prop} {c : Color} (h : ResponseInRange sg p c) (hp : p → p') :
    ResponseInRange sg p' c :=
  ⟨h.1, fun w hw => ⟨(h.2 w hw).1, fun hsg => ((h.2 w hw).2 hsg).imp_right (And.imp_right hp)⟩⟩

section Mode

variable (cfg : Config) (sg : Signedness) {m : Bc6hMode} (i : Nat)

theorem bc6hTwoColor_inRange (hns : (bc6hDesc m).ns = 2) {f : Bc6hTwo} (hf : f.fits (bc6hDesc m) = true) :
    ResponseInRange sg (MayBeInfinite cfg m) (bc6hTwoColor cfg sg (bc6hDesc m) f i) := by
  obtain ⟨hn, hn', hplain, h14⟩ := bc6hDesc_widths (m := m) (by omega)
  simp only [Bc6hTwo.fits, Bool.and_eq_true] at hf
  obtain ⟨⟨⟨⟨⟨hw, hx⟩, hy⟩, hz⟩, -⟩, -⟩ := hf
  rw [bc6hTwoColor_eq_pixel]
  refine (bc6hPixel_inRange cfg hn hn' ?_ ?_ _).mono (And.imp_left h14)
  · split_ifs
    · exact bc6hEndpoint0_inRange sg hn hw
    · exact bc6hEndpointK_inRange sg hn hplain _ hy
  · split_ifs
    · exact bc6hEndpointK_inRange sg hn hplain _ hx
    · exact bc6hEndpointK_inRange sg hn hplain _ hz

theorem bc6hOneColor_inRange (hns : (bc6hDesc m).ns = 1) {f : Bc6hOne} (hf : f.fits (bc6hDesc m) = true) :
    ResponseInRange sg (MayBeInfinite cfg m) (bc6hOneColor cfg sg (bc6hDesc m) f i) := by
  obtain ⟨hn, hn', hplain, h14⟩ := bc6hDesc_widths (m := m) (by omega)
  simp only [Bc6hOne.fits, Bool.and_eq_true] at hf
  obtain ⟨⟨hw, hx⟩, -⟩ := hf
  exact (bc6hPixel_inRange cfg hn hn' (bc6hEndpoint0_inRange sg hn hw) (bc6hEndpointK_inRange sg hn hplain _ hx) _).mono
    (And.imp_left h14)

theorem zero_inHalfRange : WordInHalfRange f32Zero ∧ 0 ≤ f32Value f32Zero :=
  have ⟨hrange, hpos⟩ := halfToFloat_range (h := 0) (by decide)
  ⟨hrange, hpos (by decide)⟩

theorem bc6hReservedColor_inRange (infinite : Prop) : ResponseInRange sg infinite bc6hReservedColor := by
  obtain ⟨⟨hexp, hlo, hhi⟩, hpos⟩ := zero_inHalfRange
  have hzero : ChannelInRange sg infinite f32Zero := ⟨fun _ => ⟨hexp, hpos, hhi⟩, fun _ => .inl ⟨hexp, hlo, hhi⟩⟩
  exact ⟨rfl, by simpa [bc6hReservedColor] using hzero⟩

end Mode

/-- A fetched BC6H block is answered with a response in range. -/
theorem runBc6h_respondsInRange (sg : Signedness) (x y : Coord) (blk : Nat) (s : State) :
    ∃ c, ResponseInRange sg (MayBeInfinite s.cfg (bc6hModeOf blk)) c ∧ runBc6h sg x y blk s = respond c s := by
  unfold runBc6h
  cases bc6hModeOf blk
  case m1 | m2 | m3 | m4 | m5 | m6 | m7 | m8 | m9 | m10 =>
    exact ⟨_, bc6hTwoColor_inRange s.cfg sg _ rfl (bc6hTwo_ofBlock_fits rfl blk), rfl⟩
  case m11 | m12 | m13 | m14 =>
    exact ⟨_, bc6hOneColor_inRange s.cfg sg _ rfl (bc6hOne_ofBlock_fits rfl blk), rfl⟩
  case r13 | r17 | r1B | r1F => exact ⟨_, bc6hReservedColor_inRange sg _, rfl⟩

/-- Settles O54: a block's instruction is what the fetched block runs, and that responds in range. -/
theorem bc6hOutputsStayInRange : Obligations.Bc6hOutputsStayInRange := by
  intro s u q rest sg x y blk hturn
  obtain ⟨c, ⟨halpha, hchannels⟩, hresp⟩ := runBc6h_respondsInRange sg x y blk s
  exact ⟨c, by rw [exec_decodeBc6h, hresp, respond_serve _ hturn], halpha, hchannels⟩

end Sys2Proof.Machine
end

section
/-! SUPPORT. The fields of a BC7 block at their bit positions (45_bc7 section 2), and words of the spec read by the decoders
(30_encoding sections 1 and 4). -/

namespace Sys2Proof

/-! ## BC7 layouts -/

/-- Settles O56: a mode's fields stand one after another, each at the sum of the widths before it (R262), and a field of width 0 is
0. -/
theorem bc7Layouts : Obligations.Bc7Layouts := by
  intro x y blk
  refine ⟨?_, ?_, ?_, ?_, ?_, ?_, ?_, ?_⟩
  all_goals
    intro hmode
    simp only [decodeBc7, hmode]
    simp [Bc7Fields.ofBlock, Machine.bc7Desc, Machine.Bc7Desc.endpoints, Machine.Bc7Desc.alphaEndpoints, Machine.Bc7Desc.pbits,
      Machine.Bc7Desc.idx1Bits, Machine.Bc7Desc.idx2Bits, Cursor.skip, Cursor.read, Cursor.readMany, slice, Nat.mod_one]

/-- Settles O21: the decoders are run on the words. -/
theorem wordsDecodeAsTheSpecSays : Obligations.WordsDecodeAsTheSpecSays :=
  ⟨rfl, rfl, rfl, rfl, rfl, by decide, by decide, rfl⟩

end Sys2Proof
end
